-- ==== Sys2Proof/Word.lean ====
section
/-! DEFINITION. The word and byte types, and the four-word command as it crosses the command port. -/

namespace Sys2Proof

/-- A command word, a response word or an output word (00_scope.md R4, parameter WORD). -/
abbrev Word := BitVec 32

/-- A byte of the source buffer, always taken as unsigned (20_memory.md R32). -/
abbrev Byte := BitVec 8

/-- The command words `CW[0]` to `CW[3]` of one `CMD128` command (30_encoding.md R50). -/
structure Cmd where
  w0 : Word
  w1 : Word
  w2 : Word
  w3 : Word
  deriving DecidableEq, Repr

end Sys2Proof
end

