-- ==== Sys2Proof/Config.lean ====
section
/-! DEFINITION. The implementation parameters of 00_scope.md R4, each at the value this hardware takes, and the
one the spec leaves OPEN (N_INSTANCES), which has no body. -/

namespace Sys2Proof

/-- A binary floating-point format: finite values are `m * 2^e` with `m < 2^precision` and
`minExp <= e <= maxExp` (00_scope.md R4, parameter FP). -/
structure FloatFormat where
  precision : Nat
  minExp : Int
  maxExp : Int
  deriving DecidableEq, Repr

/-- What DECODE_TO_HSL feeds to the HSL datapath (00_scope.md R4; 93_implementation_defined.md U3). -/
inductive HslInputScale where
  /-- The clamped 18-bit channels, not rescaled. -/
  | raw18
  /-- The top 8 bits of each channel: the alternative the spec names and this hardware does not take. -/
  | scale8
  deriving DecidableEq, Repr

/-- How an index into SRC is computed (00_scope.md R4, parameter ADDR). -/
inductive IndexArith where
  /-- Natural numbers without a bound. -/
  | natural
  /-- Wrapping at a width: what the spec says this hardware does not do (41_frame_decoder.md R123). -/
  | wrapping (bits : Nat)
  deriving DecidableEq, Repr

/-- In which order one instance may work on the pixels of a frame (00_scope.md R4, parameter
INTERNAL_PARALLELISM). -/
inductive InternalParallelism where
  /-- Row-major order only. -/
  | sequential
  /-- Any order, on condition that the result is the one the sequential rules give (41_frame_decoder.md R124). -/
  | free
  deriving DecidableEq, Repr

namespace Config

/-- WORD: the width of a command word, a response word and an output word (R4, D6). -/
abbrev wordBits : Nat := 32

/-- CMD_WORDS: the words of a command (R4, R50). -/
abbrev cmdWords : Nat := 4

/-- RESP_WORDS: the words of a response (R4, 30_encoding.md R57). -/
abbrev respWords : Nat := 5

/-- DIM_BITS: the width of WIDTH, HEIGHT and LEN, unsigned (R4, D8). -/
abbrev dimBits : Nat := 32

/-- ADDR: the arithmetic of `frameSize`, `yp` and `uvp` (R4, D8). -/
abbrev addr : IndexArith := .natural

/-- INTERNAL_PARALLELISM (R4, D21). -/
abbrev internalParallelism : InternalParallelism := .free

/-- IEEE 754 binary32: 24 bits of precision, `2^-149` the least quantum, `2^104` the greatest (R70, D1). -/
def binary32 : FloatFormat := { precision := 24, minExp := -149, maxExp := 104 }

/-- FP: the format of every float operation (R4, D1). -/
abbrev fp : FloatFormat := binary32

/-- F2I: what a value at or above `2^31` converts to (R71, D2). -/
abbrev f2iMax : Int := 2147483647

/-- F2I: what a value at or below `-2^31` converts to (R71, D2). -/
abbrev f2iMin : Int := -2147483648

/-- F2I: what NaN converts to (R71, D2). -/
abbrev f2iNaN : Int := 0

/-- HSL_INPUT_SCALE (R4, D3). -/
abbrev hslInputScale : HslInputScale := .raw18

/-- NORMALISE: the divisor of the normalisation, used in a float division (R75). -/
abbrev normaliseBy : Nat := 255

/-- The greatest r, g or b operand: CH_IN_BITS is 18 (R4, R53). -/
abbrev channelMax : Nat := 262143

/-- Y_OFFSET (R4, R109). -/
abbrev yOffset : Int := 16
/-- C_OFFSET (R4, R105). -/
abbrev cOffset : Int := 128
/-- K_Y (R4, R110). -/
abbrev kY : Int := 1192
/-- K_RV (R4, R111). -/
abbrev kRV : Int := 1634
/-- K_GV (R4, R111). -/
abbrev kGV : Int := 833
/-- K_GU (R4, R111). -/
abbrev kGU : Int := 400
/-- K_BU (R4, R111). -/
abbrev kBU : Int := 2066
/-- CLAMP_MAX (R4, R113). -/
abbrev clampMax : Int := 262143
/-- SH_R, a left shift (R4, R114). -/
abbrev shR : Nat := 6
/-- SH_G, a right shift (R4, R114). -/
abbrev shG : Nat := 2
/-- SH_B, a right shift (R4, R114). -/
abbrev shB : Nat := 10
/-- MASK_R (R4, R114). -/
abbrev maskR : Word := 0x00FF0000#32
/-- MASK_G (R4, R114). -/
abbrev maskG : Word := 0x0000FF00#32
/-- MASK_B (R4, R114). -/
abbrev maskB : Word := 0x000000FF#32
/-- ALPHA of every decoded pixel (R4, R115). -/
abbrev alpha : Word := 0xFF#32

/-- OPEN: how many instances there are beyond the first (R4 N_INSTANCES, D21); no value is chosen. -/
opaque extraInstances : Nat

/-- N_INSTANCES, at least 1 (R4, D21). -/
def nInstances : Nat := extraInstances + 1

end Config
end Sys2Proof
end

