-- ==== Sys2Proof/Machine/Float.lean ====
section
/-! DEFINITION. The floating-point primitives of 40_colorspace_math.md R70 to R72: the format FP of Config, round to
nearest ties to even, each operation rounded on its own, no flag and no trap. -/

namespace Sys2Proof.Machine

/-- A float of the format FP (R70): `fin neg m e` is `m * 2^e`, negated when `neg`. There is one NaN: no rule
tells two apart (log entry 7). -/
inductive Flt where
  | nan
  | inf (neg : Bool)
  | fin (neg : Bool) (m : Nat) (e : Int)
  deriving DecidableEq, Repr

/-- A zero of the given sign, with the least quantum of the format. -/
def fzero (neg : Bool) : Flt := .fin neg 0 Config.fp.minExp

/-- The one representation each value of the format has: least quantum, or the leading bit set. -/
def Flt.canonical : Flt → Bool
  | .nan => true
  | .inf _ => true
  | .fin _ m e =>
    decide (m < 2 ^ Config.fp.precision) && decide (Config.fp.minExp ≤ e) && decide (e ≤ Config.fp.maxExp)
      && (decide (2 ^ (Config.fp.precision - 1) ≤ m) || decide (e = Config.fp.minExp))

/-- `floor (log2 (n / d))` of a positive ratio. -/
def ratioLog2 (n d : Nat) : Int :=
  let l : Int := (n.log2 : Int) - (d.log2 : Int)
  if d * 2 ^ l.toNat ≤ n * 2 ^ (-l).toNat then l else l - 1

/-- The exponent of the quantum that `n / d * 2^e` is rounded to: `precision` bits, but never below the least
quantum, so that subnormal results are kept (R70). -/
def quantumOf (n d : Nat) (e : Int) : Int :=
  max (e + ratioLog2 n d - ((Config.fp.precision : Int) - 1)) Config.fp.minExp

/-- The integer nearest to `num / den`, an even one on a tie (R70). -/
def nearestEven (num den : Nat) : Nat :=
  let q := num / den
  let r := num % den
  if 2 * r < den then q else if den < 2 * r then q + 1 else q + q % 2

/-- A rounded significand `q` at quantum `2^x` as a float: renormalised when the rounding carried out of
`precision` bits, infinite when it is beyond the greatest finite value. -/
def packFlt (neg : Bool) (q : Nat) (x : Int) : Flt :=
  let m := if q = 2 ^ Config.fp.precision then 2 ^ (Config.fp.precision - 1) else q
  let e := if q = 2 ^ Config.fp.precision then x + 1 else x
  if Config.fp.maxExp < e then .inf neg else .fin neg m e

/-- The float nearest to `n / d * 2^e`, negated when `neg`; ties to even (R70). `d` is positive. -/
def roundFlt (neg : Bool) (n d : Nat) (e : Int) : Flt :=
  if n = 0 then fzero neg
  else
    let x := quantumOf n d e
    packFlt neg (nearestEven (n * 2 ^ (e - x).toNat) (d * 2 ^ (x - e).toNat)) x

/-- `i2f` (R71). -/
def i2f (n : Nat) : Flt := roundFlt false n 1 0

/-- A significand and sign as an integer multiple of `2^e`, for `e` at most the float's own exponent. -/
def signedAt (neg : Bool) (m : Nat) (em e : Int) : Int :=
  let z : Int := (m * 2 ^ (em - e).toNat : Nat)
  if neg then -z else z

/-- The same float with the other sign. -/
def fneg : Flt → Flt
  | .nan => .nan
  | .inf s => .inf (!s)
  | .fin s m e => .fin (!s) m e

/-- The rounded exact sum of two finite floats; an exact zero is +0 unless both operands are negative (R71). -/
def faddFin (sa : Bool) (ma : Nat) (ea : Int) (sb : Bool) (mb : Nat) (eb : Int) : Flt :=
  let e := min ea eb
  let z := signedAt sa ma ea e + signedAt sb mb eb e
  if z = 0 then fzero (sa && sb) else roundFlt (decide (z < 0)) z.natAbs 1 e

/-- `fadd` (R71). -/
def fadd : Flt → Flt → Flt
  | .nan, _ => .nan
  | .inf _, .nan => .nan
  | .fin _ _ _, .nan => .nan
  | .inf sa, .inf sb => if sa = sb then .inf sa else .nan
  | .inf sa, .fin _ _ _ => .inf sa
  | .fin _ _ _, .inf sb => .inf sb
  | .fin sa ma ea, .fin sb mb eb => faddFin sa ma ea sb mb eb

/-- `fsub` (R71). -/
def fsub (a b : Flt) : Flt := fadd a (fneg b)

/-- `fmul` (R71). -/
def fmul : Flt → Flt → Flt
  | .nan, _ => .nan
  | .inf _, .nan => .nan
  | .fin _ _ _, .nan => .nan
  | .inf sa, .inf sb => .inf (sa ^^ sb)
  | .inf sa, .fin sb mb _ => if mb = 0 then .nan else .inf (sa ^^ sb)
  | .fin sa ma _, .inf sb => if ma = 0 then .nan else .inf (sa ^^ sb)
  | .fin sa ma ea, .fin sb mb eb => roundFlt (sa ^^ sb) (ma * mb) 1 (ea + eb)

/-- `fdiv` (R71): a finite non-zero value divided by zero is infinite. -/
def fdiv : Flt → Flt → Flt
  | .nan, _ => .nan
  | .inf _, .nan => .nan
  | .fin _ _ _, .nan => .nan
  | .inf _, .inf _ => .nan
  | .inf sa, .fin sb _ _ => .inf (sa ^^ sb)
  | .fin sa _ _, .inf sb => fzero (sa ^^ sb)
  | .fin sa ma ea, .fin sb mb eb =>
    if mb = 0 then (if ma = 0 then .nan else .inf (sa ^^ sb))
    else roundFlt (sa ^^ sb) ma mb (ea - eb)

/-- `flt` (R71): any comparison with NaN is false. -/
def flt : Flt → Flt → Bool
  | .nan, _ => false
  | .inf _, .nan => false
  | .fin _ _ _, .nan => false
  | .inf sa, .inf sb => sa && !sb
  | .inf sa, .fin _ _ _ => sa
  | .fin _ _ _, .inf sb => !sb
  | .fin sa ma ea, .fin sb mb eb =>
    decide (signedAt sa ma ea (min ea eb) < signedAt sb mb eb (min ea eb))

/-- `fgt` (R71). -/
def fgt (a b : Flt) : Bool := flt b a

/-- `feq` (R71): +0.0 equals -0.0. -/
def feq : Flt → Flt → Bool
  | .nan, _ => false
  | .inf _, .nan => false
  | .fin _ _ _, .nan => false
  | .inf sa, .inf sb => sa == sb
  | .inf _, .fin _ _ _ => false
  | .fin _ _ _, .inf _ => false
  | .fin sa ma ea, .fin sb mb eb =>
    decide (signedAt sa ma ea (min ea eb) = signedAt sb mb eb (min ea eb))

/-- The lesser of two floats by `flt`, the first on a tie. -/
def fmin (a b : Flt) : Flt := if flt b a then b else a

/-- The greater of two floats by `flt`, the first on a tie. -/
def fmax (a b : Flt) : Flt := if flt a b then b else a

/-- `min3` (R71). -/
def min3 (a b c : Flt) : Flt := fmin (fmin a b) c

/-- `max3` (R71). -/
def max3 (a b c : Flt) : Flt := fmax (fmax a b) c

/-- The magnitude `m * 2^e` without its fraction. -/
def truncMagnitude (m : Nat) (e : Int) : Nat := m * 2 ^ e.toNat / 2 ^ (-e).toNat

/-- An integer held to the 32-bit two's-complement range (R71, parameter F2I). -/
def saturateInt (z : Int) : Int :=
  if Config.f2iMax < z then Config.f2iMax else if z < Config.f2iMin then Config.f2iMin else z

/-- `f2i` as an integer (R71): truncation toward zero, saturated, NaN to 0. -/
def f2iInt : Flt → Int
  | .nan => Config.f2iNaN
  | .inf neg => if neg then Config.f2iMin else Config.f2iMax
  | .fin neg m e => saturateInt (if neg then -(truncMagnitude m e : Int) else (truncMagnitude m e : Int))

/-- `f2i` (R71): the 32-bit two's-complement word. -/
def f2i (a : Flt) : Word := BitVec.ofInt 32 (f2iInt a)

/-- The binary32 pattern of a float: 1 sign bit, 8 exponent bits, 23 fraction bits (R70). -/
def Flt.toBits : Flt → BitVec 32
  | .nan => 0x7FC00000#32
  | .inf neg => BitVec.ofBool neg ++ 0xFF#8 ++ 0#23
  | .fin neg m e =>
    BitVec.ofBool neg ++ BitVec.ofNat 8 (if m < 2 ^ 23 then 0 else (e + 150).toNat) ++ BitVec.ofNat 23 m

/-- The float a binary32 pattern stands for (R70). -/
def Flt.ofBits (w : BitVec 32) : Flt :=
  let neg := w.extractLsb' 31 1 == 1#1
  let ex := (w.extractLsb' 23 8).toNat
  let frac := (w.extractLsb' 0 23).toNat
  if ex = 255 then (if frac = 0 then .inf neg else .nan)
  else if ex = 0 then .fin neg frac (-149)
  else .fin neg (2 ^ 23 + frac) ((ex : Int) - 150)

end Sys2Proof.Machine
end

