-- ==== Sys2Proof/Machine/Hsl.lean ====
section
/-! DEFINITION. The HSL datapath `hsl_core` (40_colorspace_math.md R75 to R81), its truncation (R82) and the
brightness of its floats (R87, R88). RGB_TO_HSL, BRIGHTNESS_SCORE and DECODE_TO_HSL share it. -/

namespace Sys2Proof.Machine

/-- The floats `Hf`, `Sf`, `Lf` of a pixel. -/
structure HslFloats where
  hf : Flt
  sf : Flt
  lf : Flt
  deriving DecidableEq, Repr

/-- Step 1 (R75): the channel as a float, divided by 255.0. -/
def normalise (c : Nat) : Flt := fdiv (i2f c) (i2f Config.normaliseBy)

/-- The constant 0.5 of R79 and R88. -/
def fHalf : Flt := roundFlt false 1 2 0

/-- Step 3 (R77). -/
def lightness (sumC : Flt) : Flt := fdiv sumC (i2f 2)

/-- Step 5 (R79): the first arm's divisor is `2 - range`, as the document writes it. -/
def saturation (range sumC lf : Flt) : Flt :=
  if fgt lf fHalf then fdiv range (fsub (i2f 2) range) else fdiv range sumC

/-- Step 6 (R80): red, then green, then blue; the red case has `blue - green`, as the document writes it. -/
def hue (rf gf bf maxC range : Flt) : Flt :=
  if feq rf maxC then fdiv (fsub bf gf) range
  else if feq gf maxC then fadd (i2f 2) (fdiv (fsub bf rf) range)
  else fadd (i2f 4) (fdiv (fsub rf gf) range)

/-- The wrap of step 7 (R81): 360.0 is added once to a negative hue. -/
def wrapHue (h : Flt) : Flt := if flt h (fzero false) then fadd h (i2f 360) else h

/-- Step 7 (R81). -/
def scaleHsl (x : HslFloats) : HslFloats :=
  { hf := wrapHue (fmul x.hf (i2f 60)), sf := fmul x.sf (i2f 100), lf := fmul x.lf (i2f 100) }

/-- Steps 2 to 6 on normalised channels (R76 to R80). -/
def hslUnscaled (rf gf bf : Flt) : HslFloats :=
  let minC := min3 rf gf bf
  let maxC := max3 rf gf bf
  let range := fsub maxC minC
  let sumC := fadd maxC minC
  let lf := lightness sumC
  if feq range (fzero false) then { hf := fzero false, sf := fzero false, lf := lf }
  else { hf := hue rf gf bf maxC range, sf := saturation range sumC lf, lf := lf }

/-- `hsl_core(r, g, b)`: steps 1 to 7 (R75 to R81). -/
def hslCore (r g b : Nat) : HslFloats := scaleHsl (hslUnscaled (normalise r) (normalise g) (normalise b))

/-- The float `t` of BRIGHTNESS_SCORE (R88), from the untruncated `Hf` and `Lf` (R87). -/
def brightnessFloat (x : HslFloats) : Flt :=
  fadd (fmul x.lf fHalf) (fmul (fdiv x.hf (i2f 360)) (i2f 50))

/-- What DECODE_TO_HSL feeds to the datapath for one clamped channel (R119, parameter HSL_INPUT_SCALE). -/
def hslInput : HslInputScale → Nat → Nat
  | .raw18, c => c
  | .scale8, c => c / 2 ^ 10

end Sys2Proof.Machine
end

