-- ==== Sys2Proof/Syntax.lean ====
section
/-! DEFINITION. The five commands of the command set CSP-1, one constructor per row of spec/opcode_table.json
(30_encoding.md R54). -/

namespace Sys2Proof

/-- A decoded command with its operands (30_encoding.md R52 to R54). -/
inductive Instr where
  /-- EXTRACT_ARGB (40_colorspace_math.md R74): split a packed pixel. -/
  | extractArgb (pixel : Word)
  /-- RGB_TO_HSL (40_colorspace_math.md R83): three channel values, each at most 262143. -/
  | rgbToHsl (r g b : Word)
  /-- BRIGHTNESS_SCORE (40_colorspace_math.md R88). -/
  | brightnessScore (pixel : Word)
  /-- DECODE_TO_RGB (41_frame_decoder.md R118): BV, width, height, LEN. -/
  | decodeToRgb (bv : Bool) (width height len : Word)
  /-- DECODE_TO_HSL (41_frame_decoder.md R119): BV, width, height, LEN. -/
  | decodeToHsl (bv : Bool) (width height len : Word)
  deriving DecidableEq, Repr

end Sys2Proof
end

