-- ==== Sys2Proof/WellFormed.lean ====
section
/-! DEFINITION. Which terms of Instr are commands of the hardware: the channel operands of RGB_TO_HSL are 18 bits
wide (30_encoding.md R53). Every other operand may take any 32-bit value. -/

namespace Sys2Proof

/-- A channel operand: bits 31:18 zero (30_encoding.md R53). -/
def channelFits (w : Word) : Bool := w.toNat ≤ Config.channelMax

/-- The check on a command's operands (30_encoding.md R53). -/
def Instr.wellFormed : Instr → Bool
  | .extractArgb _ => true
  | .rgbToHsl r g b => channelFits r && channelFits g && channelFits b
  | .brightnessScore _ => true
  | .decodeToRgb _ _ _ _ => true
  | .decodeToHsl _ _ _ _ => true

end Sys2Proof
end

