-- ==== Sys2Proof/Decode.lean ====
section
/-! DEFINITION. The command encoding CMD128 (30_encoding.md R50 to R56, R61): the opcode table, the decoder, total on
four words and on any bytes, the encoder, and the reading of a table row's word. -/

namespace Sys2Proof

/-- Why a command is illegal: the five points of 30_encoding.md R55, and a byte sequence that is not four words. -/
inductive DecodeError where
  /-- OPC 0x00 or 0x06 to 0xFF. -/
  | unassignedOpcode
  /-- One of `CW[0]` bits 31:9 is set. -/
  | reservedBits
  /-- BV = 1 with a scalar command. -/
  | bufferValidOnScalar
  /-- `CW[2]` or `CW[3]` non-zero with a one-operand command. -/
  | operandNotZero
  /-- A channel of RGB_TO_HSL above 262143. -/
  | channelTooWide
  /-- Not 16 bytes: no command at all (R50: a command is always four words). -/
  | notFourWords
  deriving DecidableEq, Repr

/-- A row of the opcode map (30_encoding.md R54). -/
structure OpcodeRow where
  mnemonic : String
  opcMatch : BitVec 128
  opcMask : BitVec 128
  deriving DecidableEq, Repr

/-- The opcode map of 30_encoding.md R54, `CW[3]` first in each number. -/
def opcodeTable : List OpcodeRow :=
  [ ⟨"EXTRACT_ARGB",     0x00000000000000000000000000000001#128, 0xFFFFFFFFFFFFFFFF00000000FFFFFFFF#128⟩,
    ⟨"RGB_TO_HSL",       0x00000000000000000000000000000002#128, 0xFFFC0000FFFC0000FFFC0000FFFFFFFF#128⟩,
    ⟨"BRIGHTNESS_SCORE", 0x00000000000000000000000000000003#128, 0xFFFFFFFFFFFFFFFF00000000FFFFFFFF#128⟩,
    ⟨"DECODE_TO_RGB",    0x00000000000000000000000000000004#128, 0x000000000000000000000000FFFFFEFF#128⟩,
    ⟨"DECODE_TO_HSL",    0x00000000000000000000000000000005#128, 0x000000000000000000000000FFFFFEFF#128⟩ ]

/-- The mnemonic of a command (30_encoding.md R54). -/
def Instr.mnemonic : Instr → String
  | .extractArgb _ => "EXTRACT_ARGB"
  | .rgbToHsl _ _ _ => "RGB_TO_HSL"
  | .brightnessScore _ => "BRIGHTNESS_SCORE"
  | .decodeToRgb _ _ _ _ => "DECODE_TO_RGB"
  | .decodeToHsl _ _ _ _ => "DECODE_TO_HSL"

/-- The words of a command in order, CMD_WORDS of them (00_scope.md R4). -/
def Cmd.words (c : Cmd) : List Word := [c.w0, c.w1, c.w2, c.w3]

/-- The four words as one 128-bit value, `CW[0]` in bits 31:0 (30_encoding.md R50). -/
def Cmd.bits (c : Cmd) : BitVec 128 := c.w3 ++ c.w2 ++ c.w1 ++ c.w0

/-- A command selects a row when `c & mask == match` (30_encoding.md R54). -/
def Cmd.selects (c : Cmd) (row : OpcodeRow) : Bool := (c.bits &&& row.opcMask) == row.opcMatch

/-- OPC, `CW[0][7:0]` (30_encoding.md R52). -/
def Cmd.opc (c : Cmd) : Byte := c.w0.extractLsb' 0 8

/-- BV, `CW[0][8]` (30_encoding.md R52). -/
def Cmd.bv (c : Cmd) : Bool := c.w0.extractLsb' 8 1 == 1#1

/-- `CW[0][31:9]`, which must be 0 (30_encoding.md R52). -/
def Cmd.reserved (c : Cmd) : BitVec 23 := c.w0.extractLsb' 9 23

/-- The form of EXTRACT_ARGB and BRIGHTNESS_SCORE: BV = 0, one operand, the others 0 (30_encoding.md R54, R55). -/
def decodeOneOperand (mk : Word → Instr) (c : Cmd) : Except DecodeError Instr :=
  if c.bv then .error .bufferValidOnScalar
  else if c.w2 ≠ 0#32 ∨ c.w3 ≠ 0#32 then .error .operandNotZero
  else .ok (mk c.w1)

/-- The form of RGB_TO_HSL: BV = 0, three 18-bit channels (30_encoding.md R54, R55). -/
def decodeThreeChannels (c : Cmd) : Except DecodeError Instr :=
  if c.bv then .error .bufferValidOnScalar
  else if channelFits c.w1 && channelFits c.w2 && channelFits c.w3 then .ok (.rgbToHsl c.w1 c.w2 c.w3)
  else .error .channelTooWide

/-- The decoder, total on four words (30_encoding.md R54 to R56). -/
def decode (c : Cmd) : Except DecodeError Instr :=
  if c.reserved ≠ 0#23 then .error .reservedBits
  else if c.opc = 0x01#8 then decodeOneOperand .extractArgb c
  else if c.opc = 0x02#8 then decodeThreeChannels c
  else if c.opc = 0x03#8 then decodeOneOperand .brightnessScore c
  else if c.opc = 0x04#8 then .ok (.decodeToRgb c.bv c.w1 c.w2 c.w3)
  else if c.opc = 0x05#8 then .ok (.decodeToHsl c.bv c.w1 c.w2 c.w3)
  else .error .unassignedOpcode

/-- `CW[0] = OPC | (BV << 8)` (30_encoding.md R61). -/
def encodeWord0 (opc : Byte) (bv : Bool) : Word :=
  opc.setWidth 32 ||| ((BitVec.ofBool bv).setWidth 32 <<< 8)

/-- The words of a command: the operands in order, missing operands 0 (30_encoding.md R54, R61). -/
def encode : Instr → Cmd
  | .extractArgb p => ⟨encodeWord0 0x01#8 false, p, 0#32, 0#32⟩
  | .rgbToHsl r g b => ⟨encodeWord0 0x02#8 false, r, g, b⟩
  | .brightnessScore p => ⟨encodeWord0 0x03#8 false, p, 0#32, 0#32⟩
  | .decodeToRgb bv w h len => ⟨encodeWord0 0x04#8 bv, w, h, len⟩
  | .decodeToHsl bv w h len => ⟨encodeWord0 0x05#8 bv, w, h, len⟩

/-- One word from four bytes, least significant byte first (20_memory.md R32). -/
def wordOfBytes (b0 b1 b2 b3 : Byte) : Word := b3 ++ b2 ++ b1 ++ b0

/-- The four bytes of a word, least significant byte first (20_memory.md R32). -/
def bytesOfWord (w : Word) : List Byte :=
  [w.extractLsb' 0 8, w.extractLsb' 8 8, w.extractLsb' 16 8, w.extractLsb' 24 8]

/-- A command as a host serialises it: 16 bytes (20_memory.md R32). -/
def Cmd.toBytes (c : Cmd) : List Byte :=
  bytesOfWord c.w0 ++ bytesOfWord c.w1 ++ bytesOfWord c.w2 ++ bytesOfWord c.w3

/-- The four words a host serialised, if they are 16 bytes (20_memory.md R32, 30_encoding.md R50). -/
def Cmd.ofBytes : List Byte → Option Cmd
  | [a0, a1, a2, a3, b0, b1, b2, b3, c0, c1, c2, c3, d0, d1, d2, d3] =>
    some ⟨wordOfBytes a0 a1 a2 a3, wordOfBytes b0 b1 b2 b3, wordOfBytes c0 c1 c2 c3, wordOfBytes d0 d1 d2 d3⟩
  | _ => none

/-- The decoder on any bytes: exactly four words, then `decode`. -/
def decodeBytes (bs : List Byte) : Except DecodeError Instr :=
  match Cmd.ofBytes bs with
  | none => .error .notFourWords
  | some c => decode c

/-- The command whose 128 bits are the low `nbits` bits of `w`, the bits above being 0 (30_encoding.md R50). -/
def Cmd.ofTableWord (nbits w : Nat) : Cmd :=
  let x := w % 2 ^ nbits
  { w0 := BitVec.ofNat 32 x
    w1 := BitVec.ofNat 32 (x / 2 ^ 32)
    w2 := BitVec.ofNat 32 (x / 2 ^ 64)
    w3 := BitVec.ofNat 32 (x / 2 ^ 96) }

/-- What the decoder reads from a command whose bits are `w`, laid out as bytes and decoded. -/
def decodeTableWord (nbits w : Nat) : Option Instr :=
  match decodeBytes (Cmd.ofTableWord nbits w).toBytes with
  | .ok i => some i
  | .error _ => none

end Sys2Proof
end

