-- ==== Sys2Proof/Machine/State.lean ====
section
/-! DEFINITION. The state of one pipeline instance, with the command port and the source buffer the host drives it
through, as plain data (10_state.md R10 to R22), and the state after reset. -/

namespace Sys2Proof.Machine

/-- MODE (10_state.md R12). STATUS.BUSY is 1 exactly in BUSY (R14), so it has no field of its own. -/
inductive Mode where
  | idle
  | busy
  deriving DecidableEq, Repr

/-- STATUS.KIND (10_state.md R14): OK 0, NOTHING 1, FAULT 2. -/
inductive RespKind where
  | ok
  | nothing
  | fault
  deriving DecidableEq, Repr

/-- STATUS.CODE (10_state.md R14, 60_exceptions.md R140): 0, ILLEGAL_CMD 1, BOUNDS 2. -/
inductive FaultCode where
  | noFault
  | illegalCmd
  | bounds
  deriving DecidableEq, Repr

/-- OUT_KIND (10_state.md R20). -/
inductive OutKind where
  | none
  | rgb
  | hsl
  deriving DecidableEq, Repr

/-- An element of OUT: one packed pixel, or one (H, S, L) triple (10_state.md R20). -/
inductive OutElem where
  | rgb (pixel : Word)
  | hsl (h s l : Word)
  deriving DecidableEq, Repr

/-- The result words `RES[0]` to `RES[3]` (10_state.md R13). -/
structure Res where
  r0 : Word
  r1 : Word
  r2 : Word
  r3 : Word
  deriving DecidableEq, Repr

/-- Everything the spec gives one instance, with the host's side it reads. -/
structure State where
  /-- The command port: the command the host presents and the instance has not yet taken (92 D5). -/
  port : Option Cmd
  /-- The command latch `CW[0..3]` (R11). -/
  cw : Cmd
  /-- MODE (R12), and with it STATUS.BUSY (R14). -/
  mode : Mode
  /-- STATUS.RESP_VALID (R14). -/
  respValid : Bool
  /-- STATUS.KIND (R14). -/
  kind : RespKind
  /-- STATUS.CODE (R14). -/
  code : FaultCode
  /-- STATUS.OPC (R14). -/
  opc : Byte
  /-- `RES[0..3]` (R13). -/
  res : Res
  /-- The pixel position: row (R15). -/
  j : Nat
  /-- The pixel position: column (R15). -/
  i : Nat
  /-- The pixel position: luma index (R15). -/
  yp : Nat
  /-- The chroma pointer (R16). -/
  uvp : Nat
  /-- The held chroma pair: U (R17). -/
  u : Int
  /-- The held chroma pair: V (R17). -/
  v : Int
  /-- OUT_KIND (R20). -/
  outKind : OutKind
  /-- OUT, oldest element first; OUT_LEN is its length (R20). -/
  out : List OutElem
  /-- SRC, the host's bytes by index (R21): indices rising, no entry equal to what an unlisted index reads as. -/
  src : List Host.Cell
  deriving DecidableEq, Repr

/-- Reasons for the machine to stop. There are none: the faults of the spec, ILLEGAL_CMD and BOUNDS, are responses
after which the instance goes on (60_exceptions.md R145, R146), so they are next states (log entry 6). -/
inductive Fault where
  deriving DecidableEq, Repr

/-- Reasons to give an instruction no meaning. -/
inductive Refusal where
  /-- An instruction that has no meaning yet; raised by an arm of exec and by nothing else. No arm raises it: safe. -/
  | notModelled (mnemonic : String)
  deriving DecidableEq, Repr

/-- All command words zero. -/
def Cmd.zero : Cmd := ⟨0#32, 0#32, 0#32, 0#32⟩

/-- All result words zero. -/
def Res.zero : Res := ⟨0#32, 0#32, 0#32, 0#32⟩

/-- The machine right after reset (10_state.md R22). The values of `cw`, `j`, `i`, `yp`, `uvp`, `u` and `v` are
unspecified there; zero is a DESIGN CHOICE, unsafe (log entry 3). `src` is no state of the block: nothing is listed
(log entry 2). The port is empty (log entry 4). -/
def State.reset : State :=
  { port := Option.none
    cw := Cmd.zero
    mode := .idle
    respValid := false
    kind := .ok
    code := .noFault
    opc := 0#8
    res := Res.zero
    j := 0
    i := 0
    yp := 0
    uvp := 0
    u := 0
    v := 0
    outKind := .none
    out := []
    src := [] }

end Sys2Proof.Machine
end

