-- ==== Sys2Proof/Machine/Memory.lean ====
section
/-! DEFINITION. The source buffer SRC as a list of (index, byte) pairs in one canonical form (20_memory.md R30, R31):
indices strictly rising, no entry equal to what an unlisted index reads as. -/

namespace Sys2Proof.Machine

/-- SRC: bytes by index, relative to the start of the buffer (20_memory.md R30). -/
abbrev Memory := List Host.Cell

/-- What an index with no entry reads as. DESIGN CHOICE, unsafe (log entry 2): the spec gives the buffer no reset. -/
def unlistedByte : Byte := 0#8

/-- The byte at an index; the bounds check is `memRead`'s. -/
def Memory.read : Memory → Nat → Byte
  | [], _ => unlistedByte
  | (b, c) :: m, a => if a = b then c else Memory.read m a

/-- `m` with `(a, c)` before it, unless the entry says nothing. -/
def Memory.cons (a : Nat) (c : Byte) (m : Memory) : Memory := if c = unlistedByte then m else (a, c) :: m

/-- The buffer with one byte changed: a move of the host, never of the block (20_memory.md R30). -/
def Memory.write : Memory → Nat → Byte → Memory
  | [], a, c => Memory.cons a c []
  | (b, d) :: m, a, c =>
    if a < b then Memory.cons a c ((b, d) :: m)
    else if a = b then Memory.cons a c m
    else (b, d) :: Memory.write m a c

/-- Canonical from index `lo` on. -/
def Memory.wfFrom : Nat → Memory → Bool
  | _, [] => true
  | lo, (a, c) :: m => decide (lo ≤ a) && decide (c ≠ unlistedByte) && Memory.wfFrom (a + 1) m

/-- The canonical form. -/
def Memory.wf (m : Memory) : Bool := Memory.wfFrom 0 m

/-- A buffer that holds the given bytes from index `lo` on. -/
def Memory.ofBytesFrom : Nat → List Byte → Memory
  | _, [] => []
  | lo, c :: cs => Memory.cons lo c (Memory.ofBytesFrom (lo + 1) cs)

/-- A buffer that holds the given bytes, index 0 first. -/
def Memory.ofBytes (cs : List Byte) : Memory := Memory.ofBytesFrom 0 cs

end Sys2Proof.Machine
end

