-- ==== Sys2Proof/Machine/Operands.lean ====
section
/-! DEFINITION. The operands of the commands: every operand is one whole command word (30_encoding.md R53); a packed
pixel splits into four channels (40_colorspace_math.md R73, R74), and a frame command has its dimensions and LEN. -/

namespace Sys2Proof.Machine

/-- Alpha, bits 31:24 (R74). -/
def pixelAlpha (p : Word) : Byte := p.extractLsb' 24 8
/-- Red, bits 23:16 (R74). -/
def pixelRed (p : Word) : Byte := p.extractLsb' 16 8
/-- Green, bits 15:8 (R74). -/
def pixelGreen (p : Word) : Byte := p.extractLsb' 8 8
/-- Blue, bits 7:0 (R74). -/
def pixelBlue (p : Word) : Byte := p.extractLsb' 0 8

/-- `pack_argb(A, R, G, B)` (40_colorspace_math.md R73): internal to the block. -/
def packArgb (a r g b : Byte) : Word := a ++ r ++ g ++ b

/-- Which of the two frame commands is running (41_frame_decoder.md R103). -/
inductive FrameKind where
  | rgb
  | hsl
  deriving DecidableEq, Repr

/-- The OUT_KIND a frame command sets (41_frame_decoder.md R101). -/
def outKindOf : FrameKind → OutKind
  | .rgb => .rgb
  | .hsl => .hsl

/-- `width`, `height` and LEN of a frame command, as natural numbers (41_frame_decoder.md R101, R123). -/
structure FrameArgs where
  width : Nat
  height : Nat
  len : Nat
  deriving DecidableEq, Repr

/-- The operands of a frame command: unsigned 32-bit words (30_encoding.md R53). -/
abbrev frameArgs (width height len : Word) : FrameArgs := ⟨width.toNat, height.toNat, len.toNat⟩

/-- An index as the parameter ADDR has it computed (00_scope.md R4). -/
def indexValue : IndexArith → Nat → Nat
  | .natural, n => n
  | .wrapping bits, n => n % 2 ^ bits

/-- `frameSize = width * height`, exact (41_frame_decoder.md R101, R123). -/
abbrev frameSize (a : FrameArgs) : Nat := indexValue Config.addr (a.width * a.height)

end Sys2Proof.Machine
end

