-- ==== Sys2Proof/Machine/Ops.lean ====
section
/-! DEFINITION. The operations every command is built from: acceptance, completion with a response (taking a fault is
one of them), the source read with its bounds check, and the output write (00_scope.md R8). -/

namespace Sys2Proof.Machine

/-- Acceptance of a command (30_encoding.md R51): the latch takes the four words, MODE becomes BUSY, RESP and OUT are
cleared (10_state.md R14, R20). The position and the chroma pair keep what they hold. -/
def accept (c : Cmd) (s : State) : State :=
  { s with
    port := none, cw := c, mode := .busy, respValid := false, kind := .ok, code := .noFault, opc := 0#8,
    res := Res.zero, outKind := .none, out := [] }

/-- Completion (10_state.md R12, R14): MODE becomes IDLE, RESP_VALID 1, and KIND, CODE, OPC and RES are written in one
step. The latch, the position, the chroma pair and OUT keep what they hold (60_exceptions.md R145). -/
def respond (k : RespKind) (c : FaultCode) (r : Res) (s : State) : State :=
  { s with mode := .idle, respValid := true, kind := k, code := c, opc := s.cw.opc, res := r }

/-- `respond Ok(...)` (30_encoding.md R58). -/
def respondOk (r : Res) (s : State) : State := respond .ok .noFault r s

/-- `respond Nothing` (30_encoding.md R59). -/
def respondNothing (s : State) : State := respond .nothing .noFault Res.zero s

/-- TAKING A FAULT, the one operation of both faults (60_exceptions.md R145): it is completing the command with
KIND = FAULT and a code. There is no saved pc, no vector and no mask, and nothing to return to (R146). -/
def raiseFault (c : FaultCode) (r : Res) (s : State) : State := respond .fault c r s

/-- `raise IllegalCmd` (60_exceptions.md R141, 30_encoding.md R60): `RES[0] = CW[0]`. -/
def raiseIllegal (s : State) : State := raiseFault .illegalCmd ⟨s.cw.w0, 0#32, 0#32, 0#32⟩ s

/-- Which source read is being made (60_exceptions.md R142). -/
inductive SrcRead where
  | y
  | v
  | u
  deriving DecidableEq, Repr

/-- `RES[1]` of a BOUNDS fault (60_exceptions.md R142). -/
def whichWord : SrcRead → Word
  | .y => 0#32
  | .v => 1#32
  | .u => 2#32

/-- `raise Bounds(yp, which)` (60_exceptions.md R142, 30_encoding.md R60). -/
def raiseBounds (which : SrcRead) (s : State) : State :=
  raiseFault .bounds ⟨BitVec.ofNat 32 s.yp, whichWord which, 0#32, 0#32⟩ s

/-- `MemRead(idx, 1)` (20_memory.md R33): nothing at or beyond LEN, else the unsigned byte. -/
def memRead (len : Nat) (s : State) (idx : Nat) : Option Nat :=
  if len ≤ idx then none else some (Memory.read s.src idx).toNat

/-- `MemWrite(idx, 1, v)` (20_memory.md R36): `idx` is OUT_LEN at every call, so it appends. -/
def memWrite (e : OutElem) (s : State) : State := { s with out := s.out ++ [e] }

/-- What the instance does in IDLE: it accepts the command on the port, and waits while there is none (R12, R51;
log entry 4). -/
def idleStep (s : State) : State :=
  match s.port with
  | none => s
  | some c => accept c s

end Sys2Proof.Machine
end

