-- ==== Sys2Proof/Machine/ColorSpaceMath.lean ====
section
/-! DEFINITION. The three scalar commands (40_colorspace_math.md R74, R83, R88). Each completes with OK in one step,
reads no SRC and writes no OUT. -/

namespace Sys2Proof.Machine

/-- A channel byte as a result word. -/
def channelWord (c : Byte) : Word := c.setWidth 32

/-- The four channels of a pixel (R74). -/
def argbResult (p : Word) : Res :=
  ⟨channelWord (pixelAlpha p), channelWord (pixelRed p), channelWord (pixelGreen p), channelWord (pixelBlue p)⟩

/-- EXTRACT_ARGB (R74). -/
def execExtractArgb (pixel : Word) (s : State) : Host.Outcome State Fault Refusal :=
  .next (respondOk (argbResult pixel) s)

/-- H, S and L of three channels, truncated (R82, R83). -/
def hslResult (r g b : Word) : Res :=
  let x := hslCore r.toNat g.toNat b.toNat
  ⟨f2i x.hf, f2i x.sf, f2i x.lf, 0#32⟩

/-- RGB_TO_HSL (R83). -/
def execRgbToHsl (r g b : Word) (s : State) : Host.Outcome State Fault Refusal :=
  .next (respondOk (hslResult r g b) s)

/-- The brightness of a pixel; its alpha is ignored (R88). -/
def brightnessResult (p : Word) : Res :=
  ⟨f2i (brightnessFloat (hslCore (pixelRed p).toNat (pixelGreen p).toNat (pixelBlue p).toNat)), 0#32, 0#32, 0#32⟩

/-- BRIGHTNESS_SCORE (R88). -/
def execBrightnessScore (pixel : Word) (s : State) : Host.Outcome State Fault Refusal :=
  .next (respondOk (brightnessResult pixel) s)

end Sys2Proof.Machine
end

