-- ==== Sys2Proof/Machine/Converter.lean ====
section
/-! DEFINITION. The converter datapath: luma offset, channel sums, saturating clamp and pack (41_frame_decoder.md R109
to R116). All integer arithmetic is exact (R123). -/

namespace Sys2Proof.Machine

/-- `clamp(x, lo, hi)` (00_scope.md R8). -/
def clampInt (x lo hi : Int) : Int := if x < lo then lo else if hi < x then hi else x

/-- `y = max(Y - 16, 0)` (R109). -/
def lumaOffset (y : Nat) : Int := max ((y : Int) - Config.yOffset) 0

/-- `V - 128` and `U - 128` (R105). -/
def chromaOffset (c : Nat) : Int := (c : Int) - Config.cOffset

/-- The clamped 18-bit channels of a pixel (R113). -/
structure Rgb18 where
  r : Nat
  g : Nat
  b : Nat
  deriving DecidableEq, Repr

/-- `r = y1192 + 1634 v` (R110, R111). -/
def redSum (y v : Int) : Int := Config.kY * y + Config.kRV * v
/-- `g = y1192 - 833 v - 400 u` (R110, R111). -/
def greenSum (y u v : Int) : Int := Config.kY * y - Config.kGV * v - Config.kGU * u
/-- `b = y1192 + 2066 u` (R110, R111). -/
def blueSum (y u : Int) : Int := Config.kY * y + Config.kBU * u

/-- The saturating clamp of one channel to 18 bits (R113). -/
def clamp18 (x : Int) : Nat := (clampInt x 0 Config.clampMax).toNat

/-- The clamped channels of a pixel from its offset luma and chroma (R110 to R113). -/
def convert (y u v : Int) : Rgb18 :=
  { r := clamp18 (redSum y v), g := clamp18 (greenSum y u v), b := clamp18 (blueSum y u) }

/-- `(r18 << 6) & 0x00FF0000` (R114). -/
def redField (r : Nat) : Word := (BitVec.ofNat 32 r <<< Config.shR) &&& Config.maskR
/-- `(g18 >> 2) & 0x0000FF00` (R114). -/
def greenField (g : Nat) : Word := (BitVec.ofNat 32 g >>> Config.shG) &&& Config.maskG
/-- `(b18 >> 10) & 0x000000FF` (R114). -/
def blueField (b : Nat) : Word := (BitVec.ofNat 32 b >>> Config.shB) &&& Config.maskB

/-- `pack_rgb18` (R115, R116): alpha 0xFF and the three fields. -/
def packRgb18 (c : Rgb18) : Word :=
  (Config.alpha <<< 24) ||| redField c.r ||| greenField c.g ||| blueField c.b

end Sys2Proof.Machine
end

