-- ==== Sys2Proof/Machine/FrameDecoder.lean ====
section
/-! DEFINITION. The two frame commands (41_frame_decoder.md R100 to R119): the null check and the start of a frame, the
chroma fetch and hold, the pixel step, and completion. One step of the machine is the start of the frame or one pixel
step (10_state.md R10; log entry 1). -/

namespace Sys2Proof.Machine

/-- Start of a frame (R101): OUT_KIND, the empty OUT, position (0, 0, 0). -/
def startFrame (k : FrameKind) (s : State) : State :=
  { s with outKind := outKindOf k, out := [], j := 0, i := 0, yp := 0 }

/-- The chroma pointer of the pixel at column `i`: at column 0 it is `frameSize + (j >> 1) * width`, at the others it
is what it was (R104). -/
def chromaPointer (width height i j uvp : Nat) : Nat := 
  if i = 0 then indexValue Config.addr (width * height + (j >>> 1) * width) else uvp

/-- The chroma pointer set at the start of a row (R104). -/
def rowStart (a : FrameArgs) (s : State) : State :=
  { s with uvp := chromaPointer a.width a.height s.i s.j s.uvp }

/-- A fetched pair loaded and the pointer advanced (R105). -/
def loadChroma (V U : Nat) (s : State) : State :=
  { s with v := chromaOffset V, u := chromaOffset U, uvp := indexValue Config.addr (s.uvp + 2) }

/-- The chroma fetch (R105): at an even column V then U, at an odd column the held pair stays. -/
def fetchChroma (a : FrameArgs) (s : State) : Except SrcRead State :=
  if s.i &&& 1 = 0 then
    match memRead a.len s s.uvp with
    | none => .error .v
    | some V =>
      match memRead a.len s (s.uvp + 1) with
      | none => .error .u
      | some U => .ok (loadChroma V U s)
  else .ok s

/-- The HSL triple of the clamped channels (R119, 40_colorspace_math.md R82). -/
def hslElem (c : Rgb18) : OutElem :=
  let x := hslCore (hslInput Config.hslInputScale c.r) (hslInput Config.hslInputScale c.g)
    (hslInput Config.hslInputScale c.b)
  .hsl (f2i x.hf) (f2i x.sf) (f2i x.lf)

/-- The element of OUT for the clamped channels (R103, R117). -/
def elemOf : FrameKind → Rgb18 → OutElem
  | .rgb, c => .rgb (packRgb18 c)
  | .hsl, c => hslElem c

/-- The column after column `i` (10_state.md R15). -/
def nextCol (width i : Nat) : Nat := if i + 1 = width then 0 else i + 1

/-- The row of the pixel after column `i` of row `j` (10_state.md R15). -/
def nextRow (width i j : Nat) : Nat := if i + 1 = width then j + 1 else j

/-- The next pixel, left to right then top to bottom (10_state.md R15). -/
def advance (a : FrameArgs) (s : State) : State :=
  { s with yp := indexValue Config.addr (s.yp + 1), i := nextCol a.width s.i, j := nextRow a.width s.i s.j }

/-- No pixel is left at row `j`: `j == height`, or a frame with no pixel at all (R101, R118). -/
def noPixelLeft (width height j : Nat) : Bool := decide (width = 0) || decide (height ≤ j)

/-- No pixel of the frame is left (R101, R118). -/
def frameDone (a : FrameArgs) (s : State) : Bool := noPixelLeft a.width a.height s.j

/-- OK with `RES[0] = width * height` (R101, R118). -/
def completeFrame (a : FrameArgs) (s : State) : State :=
  respondOk ⟨BitVec.ofNat 32 (frameSize a), 0#32, 0#32, 0#32⟩ s

/-- Completion as soon as no pixel is left (10_state.md R15). -/
def completeIfDone (a : FrameArgs) (s : State) : State := if frameDone a s then completeFrame a s else s

/-- The pixel step (R117): Y read, chroma fetch, element, write, advance; a failing read ends the command there. -/
def pixelStep (k : FrameKind) (a : FrameArgs) (s : State) : State :=
  let s1 := rowStart a s
  match memRead a.len s1 s1.yp with
  | none => raiseBounds .y s1
  | some Y =>
    match fetchChroma a s1 with
    | .error which => raiseBounds which s1
    | .ok s2 =>
      completeIfDone a (advance a (memWrite (elemOf k (convert (lumaOffset Y) s2.u s2.v)) s2))

/-- The null check (R100). -/
def nullBuffer (bv : Bool) (a : FrameArgs) : Bool := !bv || decide (a.len = 0)

/-- The first step of a frame command: the null check, then the start of the frame (R100, R101). -/
def beginFrame (k : FrameKind) (bv : Bool) (a : FrameArgs) (s : State) : State :=
  if nullBuffer bv a then respondNothing s else completeIfDone a (startFrame k s)

/-- One step of a frame command in flight. OUT_KIND is NONE from acceptance until the null check has passed
(10_state.md R20), so it says whether the frame has been started (log entry 14). -/
def frameCommand (k : FrameKind) (bv : Bool) (a : FrameArgs) (s : State) : State :=
  if s.outKind = .none then beginFrame k bv a s
  else if frameDone a s then completeFrame a s
  else pixelStep k a s

/-- DECODE_TO_RGB (R118). -/
def execDecodeToRgb (bv : Bool) (width height len : Word) (s : State) : Host.Outcome State Fault Refusal :=
  .next (frameCommand .rgb bv (frameArgs width height len) s)

/-- DECODE_TO_HSL (R119). -/
def execDecodeToHsl (bv : Bool) (width height len : Word) (s : State) : Host.Outcome State Fault Refusal :=
  .next (frameCommand .hsl bv (frameArgs width height len) s)

end Sys2Proof.Machine
end

