-- ==== Sys2Proof/Machine/Dispatch.lean ====
section
/-! DEFINITION. The meaning of every command, one arm per constructor of Instr (30_encoding.md R54). -/

namespace Sys2Proof.Machine

/-- One step of a decoded command. -/
def exec (i : Instr) (s : State) : Host.Outcome State Fault Refusal :=
  match i with
  | .extractArgb pixel => Sys2Proof.Machine.execExtractArgb pixel s
  | .rgbToHsl r g b => Sys2Proof.Machine.execRgbToHsl r g b s
  | .brightnessScore pixel => Sys2Proof.Machine.execBrightnessScore pixel s
  | .decodeToRgb bv width height len => Sys2Proof.Machine.execDecodeToRgb bv width height len s
  | .decodeToHsl bv width height len => Sys2Proof.Machine.execDecodeToHsl bv width height len s

end Sys2Proof.Machine
end

