-- ==== Sys2Proof/Machine/Step.lean ====
section
/-! DEFINITION. One step of an instance (10_state.md R10, R12; 30_encoding.md R51, R56), and the placing of one command
where the next step runs it. -/

namespace Sys2Proof.Machine

/-- In IDLE: accept the command on the port, or wait. In BUSY: the command in the latch, which is refused as
ILLEGAL_CMD when it matches no row and takes one step of its meaning when it does. -/
def step (s : State) : Host.Outcome State Fault Refusal :=
  match s.mode with
  | .idle => .next (idleStep s)
  | .busy =>
    match decode s.cw with
    | .error _ => .next (raiseIllegal s)
    | .ok i => exec i s

/-- `s` with that command just accepted (30_encoding.md R51): the latch is where a BUSY step reads its command, so the
very next step runs it (log entry 5). -/
def State.withFetchWord (s : State) (nbits w : Nat) : State :=
  { accept (Cmd.ofTableWord nbits w) s with port := s.port }

end Sys2Proof.Machine
end

