-- ==== Sys2Proof/Machine/Assembler.lean ====
section
/-! DEFINITION. The assembler (30_encoding.md R61): its seven line forms, their encoding, and the reading and writing of
the text of a line. -/

namespace Sys2Proof.Machine

/-- A line of the assembler: a mnemonic and its operands; `none` for the operand `len` is `NULL` (R61). -/
inductive AsmLine where
  | extractArgb (pixel : Word)
  | rgbToHsl (r g b : Word)
  | brightnessScore (pixel : Word)
  | decodeToRgb (width height : Word) (len : Option Word)
  | decodeToHsl (width height : Word) (len : Option Word)
  deriving DecidableEq, Repr

/-- The command a line stands for: `NULL` is BV = 0 and `CW[3] = 0` (R61). -/
def AsmLine.instr : AsmLine → Instr
  | .extractArgb p => .extractArgb p
  | .rgbToHsl r g b => .rgbToHsl r g b
  | .brightnessScore p => .brightnessScore p
  | .decodeToRgb w h len => .decodeToRgb len.isSome w h (len.getD 0#32)
  | .decodeToHsl w h len => .decodeToHsl len.isSome w h (len.getD 0#32)

/-- The four words of a line (R61). -/
def assemble (l : AsmLine) : Cmd := encode l.instr

/-! ### Reading the text of a line -/

/-- An operand as it is written: a number or `NULL` (R61). -/
inductive AsmOperand where
  | num (w : Word)
  | null
  deriving DecidableEq, Repr

/-- A blank between the parts of a line (log entry 21). -/
def isBlank (ch : Char) : Bool := ch == ' ' || ch == '\t'

/-- A text without its leading and trailing blanks. -/
def trimBlanks (t : List Char) : List Char := ((t.dropWhile isBlank).reverse.dropWhile isBlank).reverse

/-- The value of a digit, hexadecimal ones in either case (log entry 21). -/
def digitValue (ch : Char) : Option Nat :=
  let n := ch.toNat
  if 48 ≤ n ∧ n ≤ 57 then some (n - 48)
  else if 65 ≤ n ∧ n ≤ 70 then some (n - 55)
  else if 97 ≤ n ∧ n ≤ 102 then some (n - 87)
  else none

/-- The number that digits of a base spell, continuing from `acc`. -/
def digitsValue (base : Nat) : Nat → List Char → Option Nat
  | acc, [] => some acc
  | acc, ch :: cs =>
    match digitValue ch with
    | none => none
    | some d => if d < base then digitsValue base (acc * base + d) cs else none

/-- A number that fits one word (log entry 21). -/
def wordOfNat (n : Nat) : Option Word := if n < 2 ^ Config.wordBits then some (BitVec.ofNat 32 n) else none

/-- A number in decimal or `0x` hexadecimal (R61). -/
def readNumber : List Char → Option Word
  | [] => none
  | '0' :: 'x' :: [] => none
  | '0' :: 'x' :: ch :: cs => (digitsValue 16 0 (ch :: cs)).bind wordOfNat
  | ch :: cs => (digitsValue 10 0 (ch :: cs)).bind wordOfNat

/-- An operand (R61). -/
def readOperand (t : List Char) : Option AsmOperand :=
  if t = ['N', 'U', 'L', 'L'] then some .null else (readNumber t).map .num

/-- A text cut at its commas. -/
def splitCommas : List Char → List (List Char)
  | [] => [[]]
  | ch :: cs =>
    if ch = ',' then [] :: splitCommas cs
    else
      match splitCommas cs with
      | [] => [[ch]]
      | t :: ts => (ch :: t) :: ts

/-- The operands after the mnemonic (R61). -/
def readOperands (t : List Char) : Option (List AsmOperand) :=
  (splitCommas t).mapM fun o => readOperand (trimBlanks o)

/-- A line from its mnemonic and operands: one of the seven forms or none (R61). -/
def readForm (mnemonic : String) (operands : List AsmOperand) : Option AsmLine :=
  match operands with
  | [.num p] =>
    if mnemonic = "EXTRACT_ARGB" then some (.extractArgb p)
    else if mnemonic = "BRIGHTNESS_SCORE" then some (.brightnessScore p)
    else none
  | [.num x, .num y, .num z] =>
    if mnemonic = "RGB_TO_HSL" then some (.rgbToHsl x y z)
    else if mnemonic = "DECODE_TO_RGB" then some (.decodeToRgb x y (some z))
    else if mnemonic = "DECODE_TO_HSL" then some (.decodeToHsl x y (some z))
    else none
  | [.num x, .num y, .null] =>
    if mnemonic = "DECODE_TO_RGB" then some (.decodeToRgb x y none)
    else if mnemonic = "DECODE_TO_HSL" then some (.decodeToHsl x y none)
    else none
  | _ => none

/-- The line a text spells, a comment after `;` left out (R61). -/
def readLine (t : List Char) : Option AsmLine :=
  let body := (t.takeWhile fun ch => ch != ';').dropWhile isBlank
  let mnemonic := body.takeWhile fun ch => !isBlank ch
  (readOperands (body.dropWhile fun ch => !isBlank ch)).bind (readForm (String.ofList mnemonic))

/-! ### Writing the text of a line -/

/-- A hexadecimal digit. -/
def hexDigit (d : BitVec 4) : Char :=
  if d.toNat < 10 then Char.ofNat (48 + d.toNat) else Char.ofNat (55 + d.toNat)

/-- A word as `0x` and eight hexadecimal digits. -/
def hexText (w : Word) : List Char :=
  ['0', 'x', hexDigit (w.extractLsb' 28 4), hexDigit (w.extractLsb' 24 4), hexDigit (w.extractLsb' 20 4),
    hexDigit (w.extractLsb' 16 4), hexDigit (w.extractLsb' 12 4), hexDigit (w.extractLsb' 8 4),
    hexDigit (w.extractLsb' 4 4), hexDigit (w.extractLsb' 0 4)]

/-- The operand `len`: a word or `NULL` (R61). -/
def lenText : Option Word → List Char
  | none => ['N', 'U', 'L', 'L']
  | some w => hexText w

/-- The operands of a line in order. -/
def AsmLine.operandTexts : AsmLine → List (List Char)
  | .extractArgb p => [hexText p]
  | .rgbToHsl r g b => [hexText r, hexText g, hexText b]
  | .brightnessScore p => [hexText p]
  | .decodeToRgb w h len => [hexText w, hexText h, lenText len]
  | .decodeToHsl w h len => [hexText w, hexText h, lenText len]

/-- Operands separated by commas (R61). -/
def joinCommas : List (List Char) → List Char
  | [] => []
  | [t] => t
  | t :: u :: ts => t ++ [',', ' '] ++ joinCommas (u :: ts)

/-- The text of a line: the mnemonic, a blank, the operands (R61). -/
def AsmLine.text (l : AsmLine) : List Char := l.instr.mnemonic.toList ++ [' '] ++ joinCommas l.operandTexts

end Sys2Proof.Machine
end

