-- ==== Sys2Proof/Machine/Flags.lean ====
section
/-! DEFINITION. The block has no flags (10_state.md R19). What stands here is its one status register: the word
STATUS built from its fields (10_state.md R14). -/

namespace Sys2Proof.Machine

/-- KIND as STATUS shows it (R14). -/
def kindBits : RespKind → BitVec 2
  | .ok => 0#2
  | .nothing => 1#2
  | .fault => 2#2

/-- CODE as STATUS shows it (R14, R140). -/
def codeBits : FaultCode → BitVec 4
  | .noFault => 0#4
  | .illegalCmd => 1#4
  | .bounds => 2#4

/-- BUSY: 1 while MODE is BUSY (R14). -/
def busyBit : Mode → Bool
  | .idle => false
  | .busy => true

/-- The word STATUS: reserved 31:16, OPC 15:8, CODE 7:4, KIND 3:2, RESP_VALID 1, BUSY 0 (R14). -/
def statusWord (s : State) : Word :=
  0#16 ++ s.opc ++ codeBits s.code ++ kindBits s.kind ++ BitVec.ofBool s.respValid ++ BitVec.ofBool (busyBit s.mode)

/-- OUT_LEN (R20). -/
def outLen (s : State) : Nat := s.out.length

end Sys2Proof.Machine
end

