-- ==== Sys2Proof/Machine/HostPort.lean ====
section
/-! DEFINITION. What the host can do to an instance (60_exceptions.md R150): present a command, write SRC, raise the
reset signal, and read. The host has no move that presents to a BUSY instance, changes SRC under a frame command that names it, or reads
OUT without a response (93_implementation_defined.md U4, U5; log entry 10). -/

namespace Sys2Proof.Machine

/-- The reset signal (70_reset_and_hazards.md R160): every piece of the block's state goes to its reset value; SRC is
not touched, and what the host drives on the port stays (log entry 11). -/
def resetSignal (s : State) : State := { State.reset with port := s.port, src := s.src }

/-- A command that names SRC: a frame command whose buffer is present. -/
def namesSrc (c : Cmd) : Bool :=
  match decode c with
  | .ok (.decodeToRgb bv _ _ _) => bv
  | .ok (.decodeToHsl bv _ _ _) => bv
  | _ => false

/-- SRC is frozen from the presenting of a frame command that names it until its response (20_memory.md R42). -/
def srcFrozen (s : State) : Bool :=
  (match s.port with
   | none => false
   | some c => namesSrc c) ||
  (decide (s.mode = .busy) && namesSrc s.cw)

/-- The moves of the host that change what the instance reads, and the reset signal. -/
inductive HostMove where
  /-- Present a command, all four words at once (30_encoding.md R51). -/
  | present (c : Cmd)
  /-- Change one byte of SRC (20_memory.md R30). -/
  | writeSrc (idx : Nat) (b : Byte)
  /-- Raise the reset signal (70_reset_and_hazards.md R160). -/
  | reset
  deriving DecidableEq, Repr

/-- The state after a move of the host; none where the host has no such move. -/
def hostMove : HostMove → State → Option State
  | .present c, s => if s.mode = .idle ∧ s.port = none then some { s with port := some c } else none
  | .writeSrc idx b, s => if srcFrozen s then none else some { s with src := Memory.write s.src idx b }
  | .reset, s => some (resetSignal s)

/-- STATUS as the host reads it, at any time (60_exceptions.md R150). -/
def hostReadStatus (s : State) : Word := statusWord s

/-- RES as the host reads it, at any time (60_exceptions.md R150). -/
def hostReadRes (s : State) : Res := s.res

/-- The response as the host reads it: STATUS and `RES[0..3]`, RESP_WORDS words (30_encoding.md R57). -/
def hostReadResponse (s : State) : List Word := [statusWord s, s.res.r0, s.res.r1, s.res.r2, s.res.r3]

/-- OUT_KIND and OUT as the host reads them, only while RESP_VALID is 1 (10_state.md R20, 20_memory.md R30). -/
def hostReadOut (s : State) : Option (OutKind × List OutElem) :=
  if s.respValid then some (s.outKind, s.out) else none

end Sys2Proof.Machine
end

