-- ==== Sys2Proof/Machine/Instances.lean ====
section
/-! DEFINITION. The instances of the block (60_exceptions.md R152): each has its own state, none reads another's, and
nothing orders their steps. -/

namespace Sys2Proof.Machine

/-- Every instance after reset, all in IDLE (R152); how many there are is OPEN (00_scope.md R4, N_INSTANCES). -/
def resetInstances : List State := List.replicate Config.nInstances State.reset

/-- Instance `k` takes one step; the others are not touched. -/
def stepInstance (k : Nat) (is : List State) : List State :=
  match is[k]? with
  | none => is
  | some s =>
    match step s with
    | .next t => is.set k t
    | .fault _ => is
    | .refused _ => is

/-- The instances take their steps in the order a schedule names them: any order is allowed (R152). -/
def runSchedule : List Nat → List State → List State
  | [], is => is
  | k :: ks, is => runSchedule ks (stepInstance k is)

end Sys2Proof.Machine
end

