-- ==== Sys2Proof/Machine/Parallel.lean ====
section
/-! DEFINITION. A pixel as a function of its three source bytes (41_frame_decoder.md R120), and what an instance that
works on the pixels of a frame in another order answers (R124; 00_scope.md R4, parameter INTERNAL_PARALLELISM). -/

namespace Sys2Proof.Machine

/-- The unsigned byte of SRC at an index (20_memory.md R32). -/
def byteAt (m : List Host.Cell) (idx : Nat) : Nat := (Memory.read m idx).toNat

/-- The index of the V byte of the pixel at a row and column, in the closed form (20_memory.md R31). -/
def vIndex (width height row col : Nat) : Nat := width * height + row / 2 * width + 2 * (col / 2)

/-- The clamped channels of the pixel at a row and column, from the three bytes it depends on (R120). -/
def pixelChannels (m : List Host.Cell) (width height row col : Nat) : Rgb18 :=
  convert (lumaOffset (byteAt m (row * width + col)))
    (chromaOffset (byteAt m (vIndex width height row col + 1)))
    (chromaOffset (byteAt m (vIndex width height row col)))

/-- The element of OUT for pixel number `n` in row-major order (41_frame_decoder.md R102, R120). -/
def pixelElem (k : FrameKind) (m : List Host.Cell) (width height n : Nat) : OutElem :=
  elemOf k (pixelChannels m width height (n / width) (n % width))

/-- Every read of pixel number `n` is below LEN. -/
abbrev readsFit (width height len n : Nat) : Prop :=
  n < len ∧ (n % width % 2 = 0 → vIndex width height (n / width) (n % width) + 1 < len)

/-! ### An instance that works on several pixels at once -/

/-- The orders in which an instance may work on `n` pixels. -/
def allowedOrder : InternalParallelism → Nat → List Nat → Prop
  | .sequential, n, order => order = List.range n
  | .free, n, order => order.Perm (List.range n)

/-- The pixels of an order, each computed on its own and put into its own slot of OUT. -/
def fillSlots (k : FrameKind) (m : List Host.Cell) (width height : Nat) :
    List Nat → List (Option OutElem) → List (Option OutElem)
  | [], slots => slots
  | n :: order, slots => fillSlots k m width height order (slots.set n (some (pixelElem k m width height n)))

/-- Of the pixels of an order, the first one in row-major order with a read at or beyond LEN. -/
def leastMissing (width height len : Nat) : List Nat → Option Nat
  | [] => none
  | n :: order =>
    if readsFit width height len n then leastMissing width height len order
    else
      match leastMissing width height len order with
      | none => some n
      | some m => some (min n m)

/-- What an instance answers to a frame command: the response, and OUT slot by slot. -/
structure FrameAnswer where
  kind : RespKind
  code : FaultCode
  res : Res
  slots : List (Option OutElem)
  deriving DecidableEq, Repr

/-- The answer to a frame command with a non-empty buffer, its pixels taken in that order: after a missing byte only the
pixels before it in row-major order count (R124). -/
def answerInOrder (k : FrameKind) (m : List Host.Cell) (a : FrameArgs) (order : List Nat) : FrameAnswer :=
  let slots := List.replicate (frameSize a) none
  match leastMissing a.width a.height a.len order with
  | none =>
    { kind := .ok, code := .noFault, res := ⟨BitVec.ofNat 32 (frameSize a), 0#32, 0#32, 0#32⟩
      slots := fillSlots k m a.width a.height order slots }
  | some n =>
    let which := if a.len ≤ vIndex a.width a.height (n / a.width) (n % a.width) then SrcRead.v else SrcRead.u
    { kind := .fault, code := .bounds, res := ⟨BitVec.ofNat 32 n, whichWord which, 0#32, 0#32⟩
      slots := (fillSlots k m a.width a.height (order.filter fun p => readsFit a.width a.height a.len p) slots).take n }

end Sys2Proof.Machine
end

