-- ==== Sys2Proof/Safety.lean ====
section
/-! DEFINITION. The terms the claims are stated in: what a step keeps, what a completed frame holds, the invariant of
the machine, and the real value of a float. -/

namespace Sys2Proof.Machine

/-! ### What a command leaves unchanged -/

/-- The command port, the latch and every byte of SRC are as before. -/
structure KeepsInputs (s t : State) : Prop where
  port : t.port = s.port
  cw : t.cw = s.cw
  src : t.src = s.src
  bytes : ∀ a, Memory.read t.src a = Memory.read s.src a

/-- The pixel position is as before. -/
structure KeepsPosition (s t : State) : Prop where
  j : t.j = s.j
  i : t.i = s.i
  yp : t.yp = s.yp

/-- The chroma pointer and the held pair are as before. -/
structure KeepsChroma (s t : State) : Prop where
  uvp : t.uvp = s.uvp
  u : t.u = s.u
  v : t.v = s.v

/-- OUT is as before. -/
structure KeepsOut (s t : State) : Prop where
  outKind : t.outKind = s.outKind
  out : t.out = s.out

/-- MODE, STATUS and RES are as before. -/
structure KeepsResponse (s t : State) : Prop where
  mode : t.mode = s.mode
  respValid : t.respValid = s.respValid
  kind : t.kind = s.kind
  code : t.code = s.code
  opc : t.opc = s.opc
  res : t.res = s.res

/-- `t` has the response (`k`, `c`, `r`) to the command in `s`'s latch, and is IDLE (10_state.md R14). -/
structure Responded (s t : State) (k : RespKind) (c : FaultCode) (r : Res) : Prop where
  mode : t.mode = .idle
  respValid : t.respValid = true
  kind : t.kind = k
  code : t.code = c
  opc : t.opc = s.cw.opc
  res : t.res = r

/-- `t` has been completed by `s`'s command with that response, and nothing else changed. -/
structure CompletedWith (s t : State) (k : RespKind) (c : FaultCode) (r : Res) : Prop where
  response : Responded s t k c r
  inputs : KeepsInputs s t
  position : KeepsPosition s t
  chroma : KeepsChroma s t
  out : KeepsOut s t

/-! ### Frames -/

/-- The two frame commands under one name (41_frame_decoder.md R103). -/
def frameInstr : FrameKind → Bool → Word → Word → Word → Instr
  | .rgb, bv, w, h, len => .decodeToRgb bv w h len
  | .hsl, bv, w, h, len => .decodeToHsl bv w h len

/-- The first `n` elements of OUT (20_memory.md R37). -/
def frameOut (k : FrameKind) (m : List Host.Cell) (width height n : Nat) : List OutElem :=
  (List.range n).map (pixelElem k m width height)

/-- `need(width, height)` (20_memory.md R38). -/
def need (width height : Nat) : Nat :=
  if width = 0 ∨ height = 0 then 0 else width * height + (height + 1) / 2 * width + width % 2

/-- An idle instance with that command on its port. -/
structure Presented (i : Instr) (s : State) : Prop where
  idle : s.mode = .idle
  port : s.port = some (encode i)

/-! ### The invariant -/

/-- OUT_KIND of an element. -/
def elemKind : OutElem → OutKind
  | .rgb _ => .rgb
  | .hsl _ _ _ => .hsl

/-- A frame command between two pixel steps (10_state.md R15 to R17, R20). -/
structure InFlight (k : FrameKind) (a : FrameArgs) (s : State) : Prop where
  lenPos : 0 < a.len
  col : s.i < a.width
  row : s.j < a.height
  pos : s.yp = s.j * a.width + s.i
  outIs : s.out = frameOut k s.src a.width a.height s.yp
  chromaPtr : s.i ≠ 0 → s.uvp = a.width * a.height + s.j / 2 * a.width + 2 * ((s.i + 1) / 2)
  heldV : s.i % 2 = 1 → s.v = chromaOffset (byteAt s.src (vIndex a.width a.height s.j s.i))
  heldU : s.i % 2 = 1 → s.u = chromaOffset (byteAt s.src (vIndex a.width a.height s.j s.i + 1))
  passed : s.yp ≠ 0 → a.width * a.height + 2 ≤ a.len

/-- What holds of every state the machine can be in. -/
structure Inv (s : State) : Prop where
  /-- SRC keeps its canonical form. -/
  srcWf : Memory.wf s.src = true
  /-- The chroma pair is in range (R17). -/
  uRange : -128 ≤ s.u ∧ s.u ≤ 127
  vRange : -128 ≤ s.v ∧ s.v ≤ 127
  /-- BUSY and RESP_VALID are never both 1 (R14). -/
  busyNoResp : s.mode = .busy → s.respValid = false
  /-- KIND, CODE, OPC and RES are 0 while no response is valid (R14, R22). -/
  noResp : s.respValid = false → s.kind = .ok ∧ s.code = .noFault ∧ s.opc = 0#8 ∧ s.res = Res.zero
  /-- OUT is empty before the first command (R22). -/
  fresh : s.mode = .idle → s.respValid = false → s.outKind = .none
  /-- CODE is non-zero exactly when KIND is FAULT (R14). -/
  codeOfFault : s.kind = .fault ↔ s.code ≠ .noFault
  /-- OPC echoes the command the response answers (R14). -/
  opcEcho : s.respValid = true → s.opc = s.cw.opc
  /-- Every element of OUT has OUT's kind, so OUT is empty while OUT_KIND is NONE (R20). -/
  outShape : ∀ e ∈ s.out, elemKind e = s.outKind
  /-- A NOTHING response (30_encoding.md R59). -/
  nothingResp : s.kind = .nothing → s.res = Res.zero ∧ s.outKind = .none
  /-- An ILLEGAL_CMD response (30_encoding.md R60). -/
  illegalResp : s.code = .illegalCmd → s.res = ⟨s.cw.w0, 0#32, 0#32, 0#32⟩ ∧ s.outKind = .none
  /-- A BOUNDS response: RES[0] is OUT_LEN, RES[1] is 1 or 2 (R60, 60_exceptions.md R144). -/
  boundsResp : s.code = .bounds → s.outKind ≠ .none ∧
    (s.res = ⟨BitVec.ofNat 32 s.out.length, 1#32, 0#32, 0#32⟩ ∨
     s.res = ⟨BitVec.ofNat 32 s.out.length, 2#32, 0#32, 0#32⟩)
  /-- An OK response of a frame command: RES[0] is OUT_LEN (20_memory.md R37). -/
  okFrame : s.respValid = true → s.kind = .ok → s.outKind ≠ .none →
    s.res = ⟨BitVec.ofNat 32 s.out.length, 0#32, 0#32, 0#32⟩
  /-- A started frame command is between two pixel steps. -/
  flight : s.mode = .busy → s.outKind ≠ .none →
    ∃ k w h len, decode s.cw = .ok (frameInstr k true w h len) ∧ s.outKind = outKindOf k ∧
      InFlight k (frameArgs w h len) s

/-! ### What the host sees -/

/-- The two states look alike to the host: STATUS, RES and OUT (70_reset_and_hazards.md R164). -/
structure SameView (s t : State) : Prop where
  status : hostReadStatus s = hostReadStatus t
  res : hostReadRes s = hostReadRes t
  out : hostReadOut s = hostReadOut t

/-! ### Floats as real numbers -/

/-- The value of a finite float; 0 for the others. -/
def Flt.val : Flt → ℚ
  | .nan => 0
  | .inf _ => 0
  | .fin neg m e => if neg then -((m : ℚ) * 2 ^ e) else (m : ℚ) * 2 ^ e

/-- A finite float in its one representation. -/
def Flt.finite : Flt → Bool
  | .nan => false
  | .inf _ => false
  | .fin neg m e => (Flt.fin neg m e).canonical

/-- The sign of a float; NaN has none. -/
def Flt.negative : Flt → Bool
  | .nan => false
  | .inf neg => neg
  | .fin neg _ _ => neg

/-- The last fraction bit of a finite float is even. -/
def Flt.evenBit : Flt → Prop
  | .nan => False
  | .inf _ => False
  | .fin _ m _ => m % 2 = 0

/-- Where rounding to nearest overflows to infinity in binary32: halfway past the greatest finite value. -/
def overflowAt : ℚ := (2 ^ 25 - 1) * 2 ^ (103 : ℤ)

/-- `y` is the float nearest to `x`, the one with an even last bit on a tie, an infinity of `x`'s sign beyond the
range (40_colorspace_math.md R70). -/
def IsNearest (x : ℚ) (y : Flt) : Prop :=
  (|x| < overflowAt ∧ y.finite = true ∧
    ∀ z : Flt, z.finite = true → |x - y.val| ≤ |x - z.val| ∧ (|x - y.val| = |x - z.val| → z.val ≠ y.val → y.evenBit))
  ∨ (overflowAt ≤ x ∧ y = .inf false) ∨ (x ≤ -overflowAt ∧ y = .inf true)

end Sys2Proof.Machine
end

