-- ==== Sys2Proof/Certificates/Slice0/Obligations.lean ====
section
/-! DEFINITION. The statements for the provers. Each docstring names the rules of spec/ its statement formalises. -/

open Sys2Proof Sys2Proof.Machine

/-! ### Encoding -/

/-- R54, R61: the decoder reads back every command of the hardware, with every operand at every value. -/
def Obligations.EncodeThenDecodeIsIdentity : Prop :=
  ∀ i : Instr, i.wellFormed = true → decode (encode i) = .ok i

/-- R54, R55: a command the decoder accepts is the one encoding of its instruction, so no bit of it is ignored. -/
def Obligations.DecodeThenEncodeIsIdentity : Prop :=
  ∀ (c : Cmd) (i : Instr), decode c = .ok i → i.wellFormed = true ∧ encode i = c

/-- R54: a command selects a row of the opcode map exactly when the decoder gives that row's instruction, and the rows
are mutually exclusive. -/
def Obligations.DecoderFollowsOpcodeMap : Prop :=
  (∀ (c : Cmd) (row : OpcodeRow), row ∈ opcodeTable →
    (c.selects row = true ↔ ∃ i, decode c = .ok i ∧ i.mnemonic = row.mnemonic)) ∧
  (∀ (c : Cmd) (p q : OpcodeRow), p ∈ opcodeTable → q ∈ opcodeTable →
    c.selects p = true → c.selects q = true → p = q)

/-- R55, R141, R60: the illegal words are exactly the five kinds R55 lists, and an instance that holds one completes
with FAULT, ILLEGAL_CMD, `RES[0] = CW[0]`, the other result words 0, OUT and everything else unchanged. -/
def Obligations.IllegalWordsFaultAndNoOthers : Prop :=
  (∀ c : Cmd, (∃ e, decode c = .error e) ↔
    (c.w0.toNat % 256 = 0 ∨ 6 ≤ c.w0.toNat % 256) ∨
    c.w0.toNat / 512 ≠ 0 ∨
    (c.w0.toNat / 256 % 2 = 1 ∧ 1 ≤ c.w0.toNat % 256 ∧ c.w0.toNat % 256 ≤ 3) ∨
    ((c.w0.toNat % 256 = 1 ∨ c.w0.toNat % 256 = 3) ∧ (c.w2.toNat ≠ 0 ∨ c.w3.toNat ≠ 0)) ∨
    (c.w0.toNat % 256 = 2 ∧ (262143 < c.w1.toNat ∨ 262143 < c.w2.toNat ∨ 262143 < c.w3.toNat))) ∧
  (∀ (s : State) (e : DecodeError), s.mode = .busy → decode s.cw = .error e →
    ∃ t, step s = .next t ∧ CompletedWith s t .fault .illegalCmd ⟨s.cw.w0, 0#32, 0#32, 0#32⟩)

/-- 95_test_vectors.md section 2.8: words written out from the encoding decode to their commands or to none. -/
def Obligations.WorkedCommandWordsDecode : Prop :=
  decode ⟨0x00000001#32, 0xFFC86432#32, 0#32, 0#32⟩ = .ok (.extractArgb 0xFFC86432#32) ∧
  decode ⟨0x00000002#32, 200#32, 100#32, 50#32⟩ = .ok (.rgbToHsl 200#32 100#32 50#32) ∧
  decode ⟨0x00000003#32, 0xFFC86432#32, 0#32, 0#32⟩ = .ok (.brightnessScore 0xFFC86432#32) ∧
  decode ⟨0x00000104#32, 2#32, 3#32, 10#32⟩ = .ok (.decodeToRgb true 2#32 3#32 10#32) ∧
  decode ⟨0x00000005#32, 2#32, 3#32, 0#32⟩ = .ok (.decodeToHsl false 2#32 3#32 0#32) ∧
  decode ⟨0x00000101#32, 0xFFC86432#32, 0#32, 0#32⟩ = .error .bufferValidOnScalar ∧
  decode ⟨0x00000204#32, 2#32, 2#32, 6#32⟩ = .error .reservedBits ∧
  decode ⟨0x00000002#32, 0x00040000#32, 0#32, 0#32⟩ = .error .channelTooWide

/-- R61: every line of the assembler decodes to its command, with BV = 1 and `CW[3] = len` for a present buffer and
BV = 0 and `CW[3] = 0` for NULL; `CW[0] = OPC | (BV << 8)`. -/
def Obligations.AssembledLinesDecode : Prop :=
  (∀ l : AsmLine, l.instr.wellFormed = true → decode (assemble l) = .ok l.instr) ∧
  (∀ w h n : Word, assemble (.decodeToRgb w h (some n)) = ⟨0x00000104#32, w, h, n⟩ ∧
    assemble (.decodeToRgb w h none) = ⟨0x00000004#32, w, h, 0#32⟩ ∧
    assemble (.decodeToHsl w h (some n)) = ⟨0x00000105#32, w, h, n⟩ ∧
    assemble (.decodeToHsl w h none) = ⟨0x00000005#32, w, h, 0#32⟩ ∧
    assemble (.extractArgb w) = ⟨0x00000001#32, w, 0#32, 0#32⟩ ∧
    assemble (.rgbToHsl w h n) = ⟨0x00000002#32, w, h, n⟩ ∧
    assemble (.brightnessScore w) = ⟨0x00000003#32, w, 0#32, 0#32⟩)

/-- R61: the assembler reads back every line it writes. How it writes a number is the model's choice (log entry 21). -/
def Obligations.AssemblerReadsItsOwnLines : Prop := ∀ l : AsmLine, readLine l.text = some l

/-- R61 and 95_test_vectors.md sections 2.1, 2.2, 2.7 and 2.8: lines as the vectors write them, and their words. The last two
clauses, a text that is none of the seven forms gives no line, are no vectors but the model's choice (log entry 21). -/
def Obligations.WorkedLinesAssemble : Prop :=
  (readLine "EXTRACT_ARGB 0x12345678".toList).map assemble = some ⟨0x00000001#32, 0x12345678#32, 0#32, 0#32⟩ ∧
  (readLine "RGB_TO_HSL 200, 100, 50 ; wraps".toList).map assemble = some ⟨0x00000002#32, 0xC8#32, 0x64#32, 0x32#32⟩ ∧
  (readLine "BRIGHTNESS_SCORE  0xFFC86432".toList).map assemble = some ⟨0x00000003#32, 0xFFC86432#32, 0#32, 0#32⟩ ∧
  (readLine "DECODE_TO_RGB 1000, 1000, NULL".toList).map assemble = some ⟨0x00000004#32, 0x3E8#32, 0x3E8#32, 0#32⟩ ∧
  (readLine "DECODE_TO_RGB 2, 2, 6".toList).map assemble = some ⟨0x00000104#32, 2#32, 2#32, 6#32⟩ ∧
  (readLine "DECODE_TO_HSL 0, 0, NULL".toList).map assemble = some ⟨0x00000005#32, 0#32, 0#32, 0#32⟩ ∧
  (readLine "DECODE_TO_HSL 2, 2, 5".toList).map assemble = some ⟨0x00000105#32, 2#32, 2#32, 5#32⟩ ∧
  readLine "EXTRACT_ARGB NULL".toList = none ∧ readLine "NOP".toList = none

/-- R32: a command serialised least significant byte first is 16 bytes, byte `k` of each word being the word divided by
`2^(8k)` modulo 256, and is read back whole. That `CW[0]` comes first is log entry 17 (DEDUCED). -/
def Obligations.CommandBytesRoundTrip : Prop :=
  ∀ c : Cmd,
    c.toBytes.map BitVec.toNat =
      [c.w0.toNat % 256, c.w0.toNat / 2 ^ 8 % 256, c.w0.toNat / 2 ^ 16 % 256, c.w0.toNat / 2 ^ 24 % 256,
       c.w1.toNat % 256, c.w1.toNat / 2 ^ 8 % 256, c.w1.toNat / 2 ^ 16 % 256, c.w1.toNat / 2 ^ 24 % 256,
       c.w2.toNat % 256, c.w2.toNat / 2 ^ 8 % 256, c.w2.toNat / 2 ^ 16 % 256, c.w2.toNat / 2 ^ 24 % 256,
       c.w3.toNat % 256, c.w3.toNat / 2 ^ 8 % 256, c.w3.toNat / 2 ^ 16 % 256, c.w3.toNat / 2 ^ 24 % 256] ∧
    c.toBytes.length = 16 ∧ Cmd.ofBytes c.toBytes = some c ∧ decodeBytes c.toBytes = decode c

/-! ### The step of an instance -/

/-- R10, R51, R56: a BUSY instance runs the command its latch decodes to, and a placed command word is run by the very
next step. The second clause is the model's own way to place a command (log entry 5). -/
def Obligations.StepRunsDecodedCommand : Prop :=
  (∀ (s : State) (i : Instr), s.mode = .busy → decode s.cw = .ok i → step s = exec i s) ∧
  (∀ (s : State) (i : Instr), i.wellFormed = true →
    (s.withFetchWord 128 (encode i).bits.toNat).cw = encode i ∧
    step (s.withFetchWord 128 (encode i).bits.toNat) = exec i (s.withFetchWord 128 (encode i).bits.toNat))

/-- R51, R14, R20: acceptance latches the four words, sets MODE to BUSY, clears RESP and OUT, and leaves SRC, the
position and the chroma pair; with no command presented the instance waits (log entry 4). -/
def Obligations.AcceptanceLatchesTheCommand : Prop :=
  (∀ (s : State) (c : Cmd), s.mode = .idle → s.port = some c →
    ∃ t, step s = .next t ∧ t.cw = c ∧ t.port = none ∧ t.mode = .busy ∧ statusWord t = 1#32 ∧ t.res = Res.zero ∧
      t.outKind = .none ∧ outLen t = 0 ∧ t.src = s.src ∧ KeepsPosition s t ∧ KeepsChroma s t) ∧
  (∀ s : State, s.mode = .idle → s.port = none → step s = .next s)

/-! ### The scalar commands -/

/-- R74: EXTRACT_ARGB completes with OK for every pixel, its results the four bytes of the pixel from the top, and
changes nothing but the response and MODE. -/
def Obligations.ExtractArgbCompletes : Prop :=
  ∀ (p : Word) (s : State), ∃ t r, exec (.extractArgb p) s = .next t ∧ CompletedWith s t .ok .noFault r ∧
    r.r0.toNat = p.toNat / 2 ^ 24 ∧ r.r1.toNat = p.toNat / 2 ^ 16 % 256 ∧
    r.r2.toNat = p.toNat / 2 ^ 8 % 256 ∧ r.r3.toNat = p.toNat % 256

/-- R73, R74: packing the four results of EXTRACT_ARGB gives the pixel back. -/
def Obligations.PackUndoesExtractArgb : Prop :=
  ∀ (p : Word) (s : State), ∃ t, exec (.extractArgb p) s = .next t ∧
    packArgb (t.res.r0.setWidth 8) (t.res.r1.setWidth 8) (t.res.r2.setWidth 8) (t.res.r3.setWidth 8) = p ∧
    t.res.r0.toNat < 256 ∧ t.res.r1.toNat < 256 ∧ t.res.r2.toNat < 256 ∧ t.res.r3.toNat < 256

/-- R83 with R75 to R82: RGB_TO_HSL completes with OK and the truncated results of the eight steps, written out here
in the rules' order, and changes nothing but the response and MODE. -/
def Obligations.RgbToHslCompletes : Prop :=
  ∀ (r g b : Word) (s : State),
    let rf := fdiv (i2f r.toNat) (i2f 255)
    let gf := fdiv (i2f g.toNat) (i2f 255)
    let bf := fdiv (i2f b.toNat) (i2f 255)
    let minC := min3 rf gf bf
    let maxC := max3 rf gf bf
    let range := fsub maxC minC
    let sumC := fadd maxC minC
    let l3 := fdiv sumC (i2f 2)
    let s5 := if feq range (fzero false) = true then fzero false
      else if fgt l3 (roundFlt false 1 2 0) = true then fdiv range (fsub (i2f 2) range) else fdiv range sumC
    let h6 := if feq range (fzero false) = true then fzero false
      else if feq rf maxC = true then fdiv (fsub bf gf) range
      else if feq gf maxC = true then fadd (i2f 2) (fdiv (fsub bf rf) range)
      else fadd (i2f 4) (fdiv (fsub rf gf) range)
    let h60 := fmul h6 (i2f 60)
    let h7 := if flt h60 (fzero false) = true then fadd h60 (i2f 360) else h60
    ∃ t, exec (.rgbToHsl r g b) s = .next t ∧
      CompletedWith s t .ok .noFault ⟨f2i h7, f2i (fmul s5 (i2f 100)), f2i (fmul l3 (i2f 100)), 0#32⟩

/-- R83, R85, R86 and 95_test_vectors.md sections 2.2 and 2.3: worked conversions. -/
def Obligations.RgbToHslWorkedExamples : Prop :=
  hslResult 255#32 0#32 0#32 = ⟨0#32, 100#32, 50#32, 0#32⟩ ∧
  hslResult 0#32 255#32 0#32 = ⟨120#32, 100#32, 50#32, 0#32⟩ ∧
  hslResult 0#32 0#32 255#32 = ⟨240#32, 100#32, 50#32, 0#32⟩ ∧
  hslResult 128#32 128#32 128#32 = ⟨0#32, 0#32, 50#32, 0#32⟩ ∧
  hslResult 255#32 255#32 255#32 = ⟨0#32, 0#32, 100#32, 0#32⟩ ∧
  hslResult 200#32 100#32 50#32 = ⟨340#32, 60#32, 49#32, 0#32⟩ ∧
  hslResult 10#32 20#32 30#32 = ⟨210#32, 49#32, 7#32, 0#32⟩ ∧
  hslResult 510#32 0#32 0#32 = ⟨0#32, 2147483647#32, 100#32, 0#32⟩ ∧
  hslResult 262143#32 0#32 0#32 = ⟨0#32, BitVec.ofInt 32 (-100), 51400#32, 0#32⟩

/-- R78, R83: equal channels, in or out of the contract, give H = 0 and S = 0, and L is the lightness of R77. -/
def Obligations.EqualChannelsGiveZeroHueAndSaturation : Prop :=
  ∀ (c : Word) (s : State), c.toNat ≤ 262143 →
    ∃ t, exec (.rgbToHsl c c c) s = .next t ∧ t.res.r0 = 0#32 ∧ t.res.r1 = 0#32 ∧
      t.res.r2 = f2i (fmul (fdiv (fadd (normalise c.toNat) (normalise c.toNat)) (i2f 2)) (i2f 100)) ∧ t.res.r3 = 0#32

/-- R76: the normalisation is strictly increasing over the 18-bit channels. -/
def Obligations.NormaliseIsStrictlyIncreasing : Prop :=
  ∀ m n : Nat, m < n → n ≤ 262143 → flt (normalise m) (normalise n) = true

/-- R76: the range is +0.0 exactly when the three channels are equal. -/
def Obligations.RangeIsZeroOnlyForEqualChannels : Prop :=
  ∀ r g b : Nat, r ≤ 262143 → g ≤ 262143 → b ≤ 262143 →
    let maxC := max3 (normalise r) (normalise g) (normalise b)
    let minC := min3 (normalise r) (normalise g) (normalise b)
    (fsub maxC minC = fzero false ↔ r = g ∧ g = b)

/-- R80: the hue arm is chosen by the integer channels, red first, then green, then blue on ties. -/
def Obligations.HueFavoursRedThenGreenThenBlue : Prop :=
  ∀ r g b : Nat, r ≤ 262143 → g ≤ 262143 → b ≤ 262143 → ¬(r = g ∧ g = b) →
    let rf := normalise r
    let gf := normalise g
    let bf := normalise b
    let range := fsub (max3 rf gf bf) (min3 rf gf bf)
    (hslUnscaled rf gf bf).hf =
      if g ≤ r ∧ b ≤ r then fdiv (fsub bf gf) range
      else if b ≤ g then fadd (i2f 2) (fdiv (fsub bf rf) range)
      else fadd (i2f 4) (fdiv (fsub rf gf) range)

/-- R86: a range of exactly 2.0 makes S = 2147483647. -/
def Obligations.RangeOfTwoSaturatesS : Prop :=
  ∀ (r g b : Word) (s : State), r.toNat ≤ 262143 → g.toNat ≤ 262143 → b.toNat ≤ 262143 →
    fsub (max3 (normalise r.toNat) (normalise g.toNat) (normalise b.toNat))
      (min3 (normalise r.toNat) (normalise g.toNat) (normalise b.toNat)) = i2f 2 →
    ∃ t, exec (.rgbToHsl r g b) s = .next t ∧ t.res.r1 = 2147483647#32

/-- R72: no result of the HSL datapath is NaN. -/
def Obligations.HslDatapathNeverGivesNaN : Prop :=
  ∀ r g b : Nat, r ≤ 262143 → g ≤ 262143 → b ≤ 262143 →
    (hslCore r g b).hf ≠ .nan ∧ (hslCore r g b).sf ≠ .nan ∧ (hslCore r g b).lf ≠ .nan

/-- R81: after the wrap the hue is at least 0 and below 360, in or out of the contract. -/
def Obligations.HueIsBelow360 : Prop :=
  ∀ r g b : Nat, r ≤ 262143 → g ≤ 262143 → b ≤ 262143 →
    (hslCore r g b).hf.finite = true ∧ 0 ≤ (hslCore r g b).hf.val ∧ (hslCore r g b).hf.val < 360

/-- R84, R85, R89: for channels in the document's contract RGB_TO_HSL gives H in 0 to 359 and S and L in 0 to 100; for
wider channels H is still in 0 to 359; BRIGHTNESS_SCORE gives 0 to 100 for every pixel. -/
def Obligations.ResultsStayInTheirRanges : Prop :=
  (∀ (r g b : Word) (s : State), r.toNat ≤ 262143 → g.toNat ≤ 262143 → b.toNat ≤ 262143 →
    ∃ t, exec (.rgbToHsl r g b) s = .next t ∧ t.res.r0.toNat ≤ 359 ∧
      (r.toNat ≤ 255 → g.toNat ≤ 255 → b.toNat ≤ 255 → t.res.r1.toNat ≤ 100 ∧ t.res.r2.toNat ≤ 100)) ∧
  (∀ (p : Word) (s : State), ∃ t, exec (.brightnessScore p) s = .next t ∧ t.res.r0.toNat ≤ 100)

/-- R88, R87: BRIGHTNESS_SCORE completes with OK and the truncated sum of `Lf * 0.5` and `(Hf / 360) * 50`, from the
floats of the datapath of R75 to R81 on the pixel's red, green and blue bytes, and changes nothing but the response and
MODE; two pixels that differ only in alpha score the same. -/
def Obligations.BrightnessScoreCompletes : Prop :=
  (∀ (p : Word) (s : State),
    let x := hslCore (p.toNat / 2 ^ 16 % 256) (p.toNat / 2 ^ 8 % 256) (p.toNat % 256)
    ∃ t, exec (.brightnessScore p) s = .next t ∧
      CompletedWith s t .ok .noFault
        ⟨f2i (fadd (fmul x.lf (roundFlt false 1 2 0)) (fmul (fdiv x.hf (i2f 360)) (i2f 50))), 0#32, 0#32, 0#32⟩) ∧
  (∀ (p q : Word) (s : State), p.toNat % 2 ^ 24 = q.toNat % 2 ^ 24 →
    exec (.brightnessScore p) s = exec (.brightnessScore q) s)

/-- R88, R89 and 95_test_vectors.md section 2.4: worked scores. -/
def Obligations.BrightnessWorkedExamples : Prop :=
  (brightnessResult 0xFFFFFFFF#32).r0 = 50#32 ∧ (brightnessResult 0xFFC86432#32).r0 = 71#32 ∧
  (brightnessResult 0x00FFF2F1#32).r0 = 98#32 ∧ (brightnessResult 0xFF000000#32).r0 = 0#32 ∧
  (brightnessResult 0xFF00FF00#32).r0 = 41#32 ∧ (brightnessResult 0xFF010203#32).r0 = 29#32

/-- R163, R51: a presented scalar command is accepted by one step and has its OK response after one more; OUT is empty
and SRC untouched. That acceptance from the port is a step of its own is the model's choice (log entries 1 and 4). -/
def Obligations.ScalarCommandsRunInTwoSteps : Prop :=
  (∀ (p : Word) (s : State), Presented (.extractArgb p) s →
    ∃ t, Host.Core.run core 2 s = .next t ∧ Responded { s with cw := encode (.extractArgb p) } t .ok .noFault (argbResult p) ∧
      t.outKind = .none ∧ t.out = [] ∧ t.src = s.src) ∧
  (∀ (r g b : Word) (s : State), (Instr.rgbToHsl r g b).wellFormed = true → Presented (.rgbToHsl r g b) s →
    ∃ t, Host.Core.run core 2 s = .next t ∧ Responded { s with cw := encode (.rgbToHsl r g b) } t .ok .noFault (hslResult r g b) ∧
      t.outKind = .none ∧ t.out = [] ∧ t.src = s.src) ∧
  (∀ (p : Word) (s : State), Presented (.brightnessScore p) s →
    ∃ t, Host.Core.run core 2 s = .next t ∧
      Responded { s with cw := encode (.brightnessScore p) } t .ok .noFault (brightnessResult p) ∧
      t.outKind = .none ∧ t.out = [] ∧ t.src = s.src)

/-! ### Floating point -/

/-- R70, R71: on finite floats, addition, subtraction, multiplication and division give the exact real result rounded
to the nearest float, ties to even, an infinity beyond the range. Zero divisors, infinities, NaN and the sign of zero
are FloatSpecialValues. -/
def Obligations.FloatOperationsRoundToNearestEven : Prop :=
  ∀ a b : Flt, a.finite = true → b.finite = true →
    IsNearest (a.val + b.val) (fadd a b) ∧ IsNearest (a.val - b.val) (fsub a b) ∧
    IsNearest (a.val * b.val) (fmul a b) ∧ (b.val ≠ 0 → IsNearest (a.val / b.val) (fdiv a b))

/-- R71: an integer below 2^24 converts to a float exactly. -/
def Obligations.IntegerToFloatIsExact : Prop :=
  ∀ n : Nat, n < 2 ^ 24 → (i2f n).finite = true ∧ (i2f n).val = n

/-- R71: on finite floats the comparisons are those of the values, and min3 and max3 are the least and the greatest;
an infinity is beyond every finite float and equal to itself; any comparison with NaN is false. -/
def Obligations.FloatComparisonsFollowTheValues : Prop :=
  (∀ a b c : Flt, a.finite = true → b.finite = true → c.finite = true →
    (flt a b = true ↔ a.val < b.val) ∧ (fgt a b = true ↔ b.val < a.val) ∧ (feq a b = true ↔ a.val = b.val) ∧
    (min3 a b c).val = min (min a.val b.val) c.val ∧ (max3 a b c).val = max (max a.val b.val) c.val) ∧
  (∀ (a : Flt) (s t : Bool), a.finite = true →
    flt a (.inf s) = !s ∧ flt (.inf s) a = s ∧ fgt a (.inf s) = s ∧ fgt (.inf s) a = !s ∧
    feq a (.inf s) = false ∧ feq (.inf s) a = false ∧
    flt (.inf s) (.inf t) = (s && !t) ∧ fgt (.inf s) (.inf t) = (!s && t) ∧ feq (.inf s) (.inf t) = (s == t)) ∧
  (∀ a : Flt, flt a .nan = false ∧ flt .nan a = false ∧ fgt a .nan = false ∧ fgt .nan a = false ∧
    feq a .nan = false ∧ feq .nan a = false)

/-- R71: `f2i` truncates toward zero, gives 2^31 - 1 from 2^31 on and for +Inf, -2^31 from -2^31 down and for -Inf, and
0 for NaN. -/
def Obligations.FloatToIntegerTruncatesAndSaturates : Prop :=
  (∀ a : Flt, a.finite = true →
    (0 ≤ a.val → a.val < 2 ^ 31 → (f2i a).toInt = ⌊a.val⌋) ∧
    (a.val < 0 → -(2 ^ 31) < a.val → (f2i a).toInt = ⌈a.val⌉) ∧
    (2 ^ 31 ≤ a.val → (f2i a).toInt = 2147483647) ∧
    (a.val ≤ -(2 ^ 31) → (f2i a).toInt = -2147483648)) ∧
  (f2i (.inf false)).toInt = 2147483647 ∧ (f2i (.inf true)).toInt = -2147483648 ∧ (f2i .nan).toInt = 0

/-- R70: the floats are the binary32 patterns, one sign bit, 8 exponent bits and 23 fraction bits. -/
def Obligations.FloatsAreBinary32Patterns : Prop :=
  (∀ a : Flt, a.canonical = true → Flt.ofBits a.toBits = a) ∧
  (∀ w : BitVec 32, (Flt.ofBits w).canonical = true ∧ (Flt.ofBits w ≠ .nan → (Flt.ofBits w).toBits = w))

/-! ### The converter datapath -/

/-- R109, R105, R110, R111, R113: the clamped channels of a pixel from its three source bytes, and the ranges of the
sums before the clamp. -/
def Obligations.ConverterClampsTheChannelSums : Prop :=
  ∀ Y U V : Byte,
    let y : Int := if Y.toNat ≤ 16 then 0 else (Y.toNat : Int) - 16
    let u : Int := (U.toNat : Int) - 128
    let v : Int := (V.toNat : Int) - 128
    let r := 1192 * y + 1634 * v
    let g := 1192 * y - 833 * v - 400 * u
    let b := 1192 * y + 2066 * u
    let c := convert (lumaOffset Y.toNat) (chromaOffset U.toNat) (chromaOffset V.toNat)
    (c.r : Int) = max 0 (min r 262143) ∧ (c.g : Int) = max 0 (min g 262143) ∧ (c.b : Int) = max 0 (min b 262143) ∧
    -209152 ≤ r ∧ r ≤ 492406 ∧ -156591 ≤ g ∧ g ≤ 442712 ∧ -264448 ≤ b ∧ b ≤ 547270

/-- R114, R115, R116, R122: the pack puts the top 8 bits of each 18-bit channel in its own byte under alpha 0xFF. -/
def Obligations.PackTakesTheTopBytes : Prop :=
  ∀ c : Rgb18, c.r ≤ 262143 → c.g ≤ 262143 → c.b ≤ 262143 →
    packRgb18 c = packArgb 0xFF#8 (BitVec.ofNat 8 (c.r / 1024)) (BitVec.ofNat 8 (c.g / 1024)) (BitVec.ofNat 8 (c.b / 1024)) ∧
    (packRgb18 c).toNat = 255 * 2 ^ 24 + c.r / 1024 * 2 ^ 16 + c.g / 1024 * 2 ^ 8 + c.b / 1024

/-- R121: with V = U = 128, `r = g = b = 1192 * y` and the three channel bytes are equal, `min(1192 * y, 262143) >> 10`:
0x00 for luma 16 and below, 0x01 for 17, 0xFE for 235, 0xFF for 236 and above. -/
def Obligations.GreyDecodesToGrey : Prop :=
  ∀ Y : Byte,
    let y := Y.toNat - 16
    let g := min (1192 * y) 262143 / 1024
    redSum (lumaOffset Y.toNat) (chromaOffset 128) = 1192 * y ∧
    greenSum (lumaOffset Y.toNat) (chromaOffset 128) (chromaOffset 128) = 1192 * y ∧
    blueSum (lumaOffset Y.toNat) (chromaOffset 128) = 1192 * y ∧
    packRgb18 (convert (lumaOffset Y.toNat) (chromaOffset 128) (chromaOffset 128)) =
      packArgb 0xFF#8 (BitVec.ofNat 8 g) (BitVec.ofNat 8 g) (BitVec.ofNat 8 g) ∧
    (Y.toNat ≤ 16 → g = 0) ∧ (Y.toNat = 17 → g = 1) ∧ (Y.toNat = 235 → g = 254) ∧ (236 ≤ Y.toNat → g = 255)

/-! ### The frame commands, step by step -/

/-- R100, R56: with no buffer or an empty one, the first step of either frame command responds NOTHING whatever the
dimensions, and changes nothing but the response and MODE. -/
def Obligations.NullBufferGivesNothing : Prop :=
  ∀ (k : FrameKind) (bv : Bool) (w h len : Word) (s : State), s.outKind = .none → (bv = false ∨ len = 0#32) →
    ∃ t, exec (frameInstr k bv w h len) s = .next t ∧ CompletedWith s t .nothing .noFault Res.zero

/-- R101: past the null check the first step sets OUT_KIND, empties OUT and puts the position at (0, 0, 0); with no
pixel it completes with OK and `RES[0] = 0`, otherwise the command goes on. -/
def Obligations.FrameStartSetsThePosition : Prop :=
  ∀ (k : FrameKind) (w h len : Word) (s : State), s.outKind = .none → len ≠ 0#32 →
    ∃ t, exec (frameInstr k true w h len) s = .next t ∧ t.outKind = outKindOf k ∧ t.out = [] ∧
      t.j = 0 ∧ t.i = 0 ∧ t.yp = 0 ∧ KeepsChroma s t ∧ KeepsInputs s t ∧
      (if w = 0#32 ∨ h = 0#32 then Responded s t .ok .noFault Res.zero else KeepsResponse s t)

/-- R117, R104, R105, R15, R36: a pixel step whose reads are all below LEN. At column 0 the chroma pointer is set, at an
even column V and U are read and held and the pointer advances by 2, one element is appended, the position advances,
and the command completes with OK and `RES[0] = width * height` when no row is left. Nothing else changes. The element is the packed pixel for
DECODE_TO_RGB (R118), the truncated floats of `hsl_core` on the clamped 18-bit channels, not rescaled, for
DECODE_TO_HSL (R119). -/
def Obligations.PixelStepAppendsOneElement : Prop :=
  ∀ (k : FrameKind) (bv : Bool) (w h len : Word) (s : State),
    s.outKind ≠ .none → 0 < w.toNat → s.j < h.toNat → s.yp < len.toNat →
    let uvp := if s.i = 0 then w.toNat * h.toNat + s.j / 2 * w.toNat else s.uvp
    (s.i % 2 = 0 → uvp + 1 < len.toNat) →
    let v : Int := if s.i % 2 = 0 then (byteAt s.src uvp : Int) - 128 else s.v
    let u : Int := if s.i % 2 = 0 then (byteAt s.src (uvp + 1) : Int) - 128 else s.u
    let c := convert (max ((byteAt s.src s.yp : Int) - 16) 0) u v
    ∃ t, exec (frameInstr k bv w h len) s = .next t ∧
      t.out = s.out ++ [match k with
        | .rgb => .rgb (packRgb18 c)
        | .hsl => .hsl (f2i (hslCore c.r c.g c.b).hf) (f2i (hslCore c.r c.g c.b).sf) (f2i (hslCore c.r c.g c.b).lf)] ∧
      t.outKind = s.outKind ∧ t.yp = s.yp + 1 ∧
      t.i = (if s.i + 1 = w.toNat then 0 else s.i + 1) ∧ t.j = (if s.i + 1 = w.toNat then s.j + 1 else s.j) ∧
      t.uvp = (if s.i % 2 = 0 then uvp + 2 else uvp) ∧ t.u = u ∧ t.v = v ∧ KeepsInputs s t ∧
      (if t.j < h.toNat then KeepsResponse s t
       else Responded s t .ok .noFault ⟨BitVec.ofNat 32 (w.toNat * h.toNat), 0#32, 0#32, 0#32⟩)

/-- R33, R142, R60: the first read of a pixel step at or beyond LEN, Y before V before U, ends the command with FAULT,
BOUNDS, `RES[0] = yp` and the read in `RES[1]`; no element is appended and the position stays (R145). That the chroma
pointer set at column 0 stays set and the pair is not loaded is log entry 15 (DEDUCED), read from the order of R104,
R105 and R117. -/
def Obligations.FirstReadPastLenRaisesBounds : Prop :=
  ∀ (k : FrameKind) (bv : Bool) (w h len : Word) (s : State),
    s.outKind ≠ .none → 0 < w.toNat → s.j < h.toNat →
    let uvp := if s.i = 0 then w.toNat * h.toNat + s.j / 2 * w.toNat else s.uvp
    ∀ which : Word,
    ((which = 0#32 ∧ len.toNat ≤ s.yp) ∨
     (which = 1#32 ∧ s.yp < len.toNat ∧ s.i % 2 = 0 ∧ len.toNat ≤ uvp) ∨
     (which = 2#32 ∧ s.yp < len.toNat ∧ s.i % 2 = 0 ∧ len.toNat = uvp + 1)) →
    ∃ t, exec (frameInstr k bv w h len) s = .next t ∧
      Responded s t .fault .bounds ⟨BitVec.ofNat 32 s.yp, which, 0#32, 0#32⟩ ∧
      KeepsOut s t ∧ KeepsPosition s t ∧ KeepsInputs s t ∧ t.u = s.u ∧ t.v = s.v ∧ t.uvp = uvp

/-- R144: in no state the machine can be in does a step respond BOUNDS with `RES[1] = 0`: the luma read never fails. -/
def Obligations.LumaReadNeverFails : Prop :=
  ∀ s t : State, Inv s → s.mode = .busy → step s = .next t → t.code = .bounds → t.res.r1 ≠ 0#32

/-- R39: between two pixel steps the chroma pointer, after the row start of column 0, is at the closed form of
20_memory.md R31 at every even column, and one pair past it at every odd column. -/
def Obligations.ChromaPointerIsTheClosedForm : Prop :=
  ∀ (s : State) (k : FrameKind) (w h len : Word), Inv s → s.mode = .busy → s.outKind ≠ .none →
    decode s.cw = .ok (frameInstr k true w h len) →
    (rowStart (frameArgs w h len) s).uvp =
      vIndex w.toNat h.toNat s.j s.i + (if s.i % 2 = 0 then 0 else 2)

/-! ### Whole frames -/

/-- R118, R119, R120, R102, R38: a presented frame command with LEN at least `need(width, height)` completes with OK
after acceptance, the start and one step per pixel; OUT is the element of every pixel in row-major order, each a
function of its three source bytes, and SRC is untouched. The count of steps, width * height + 2, rests on log entry 1
(DESIGN CHOICE: acceptance and the start of the frame are steps of their own). -/
def Obligations.SufficientBufferDecodesTheWholeFrame : Prop :=
  ∀ (k : FrameKind) (w h len : Word) (s : State), Presented (frameInstr k true w h len) s →
    len ≠ 0#32 → need w.toNat h.toNat ≤ len.toNat →
    ∃ t, Host.Core.run core (w.toNat * h.toNat + 2) s = .next t ∧
      Responded { s with cw := encode (frameInstr k true w h len) } t .ok .noFault
        ⟨BitVec.ofNat 32 (w.toNat * h.toNat), 0#32, 0#32, 0#32⟩ ∧
      t.outKind = outKindOf k ∧ t.out = frameOut k s.src w.toNat h.toNat (w.toNat * h.toNat) ∧ t.src = s.src ∧
      t.res.r0.toNat = outLen t

/-- R38, R142, R144, R37: a presented frame command with LEN below `need(width, height)` ends with FAULT, BOUNDS at the
first pixel one of whose reads is at or beyond LEN, with OUT the elements of the pixels before it; `RES[1]` is 1 when V
is at or beyond LEN and 2 when only U is; nothing but the dimensions and LEN decides it. The count of steps,
n + 3, rests on log entry 1 (DESIGN CHOICE: acceptance and the start of the frame are steps of their own). -/
def Obligations.ShortBufferFaultsAtTheFirstMissingByte : Prop :=
  ∀ (k : FrameKind) (w h len : Word) (s : State), Presented (frameInstr k true w h len) s →
    len ≠ 0#32 → len.toNat < need w.toNat h.toNat →
    ∃ n t, n < w.toNat * h.toNat ∧ (∀ m, m < n → readsFit w.toNat h.toNat len.toNat m) ∧
      ¬readsFit w.toNat h.toNat len.toNat n ∧ n < len.toNat ∧
      Host.Core.run core (n + 3) s = .next t ∧
      Responded { s with cw := encode (frameInstr k true w h len) } t .fault .bounds
        ⟨BitVec.ofNat 32 n, if len.toNat ≤ vIndex w.toNat h.toNat (n / w.toNat) (n % w.toNat) then 1#32 else 2#32,
          0#32, 0#32⟩ ∧
      t.outKind = outKindOf k ∧ t.out = frameOut k s.src w.toNat h.toNat n ∧ t.src = s.src

/-- R38: `need` is one more than the greatest index a frame command reads, and is the document's `width*height*3/2`
when both dimensions are even. -/
def Obligations.NeedIsOnePastTheGreatestIndexRead : Prop :=
  (∀ w h n : Nat, n < w * h → readsFit w h (need w h) n) ∧
  (∀ w h : Nat, 0 < w → 0 < h → ∀ len, len < need w h → ∃ n, n < w * h ∧ ¬readsFit w h len n) ∧
  (∀ w h : Nat, w % 2 = 0 → h % 2 = 0 → 2 * need w h = 3 * (w * h))

/-- R106: in the OUT of a completed frame the four pixels of a 2x2 block with equal luma are identical. -/
def Obligations.BlockWithEqualLumaDecodesAlike : Prop :=
  ∀ (k : FrameKind) (w h len : Word) (s t : State), Presented (frameInstr k true w h len) s → len ≠ 0#32 →
    need w.toNat h.toNat ≤ len.toNat → Host.Core.run core (w.toNat * h.toNat + 2) s = .next t →
    ∀ a b : Nat, 2 * a + 1 < h.toNat → 2 * b + 1 < w.toNat →
      let p := 2 * a * w.toNat + 2 * b
      byteAt s.src (p + 1) = byteAt s.src p → byteAt s.src (p + w.toNat) = byteAt s.src p →
      byteAt s.src (p + w.toNat + 1) = byteAt s.src p →
      t.out[p]? ≠ none ∧ t.out[p + 1]? = t.out[p]? ∧ t.out[p + w.toNat]? = t.out[p]? ∧
        t.out[p + w.toNat + 1]? = t.out[p]?

/-! ### Invariants and whole-machine rules -/

/-- R22: the invariant holds after reset. The zeros of the unspecified registers are the model's choice (log entry 3). -/
def Obligations.ResetMeetsTheInvariant : Prop := Inv State.reset

/-- R12 to R20, R37, R59, R60: every step keeps the invariant, in every state that meets it. -/
def Obligations.StepKeepsTheInvariant : Prop :=
  ∀ s t : State, Inv s → step s = .next t → Inv t

/-- R150, R42, R160: every move of the host keeps the invariant. -/
def Obligations.HostMovesKeepTheInvariant : Prop :=
  ∀ (m : HostMove) (s t : State), Inv s → hostMove m s = some t → Inv t

/-- R102, R140, R163: every command in flight gets its one response after finitely many steps, one for a scalar or an
illegal command and at most one more than the pixels of a frame, R163's pixel steps and the start step of log entry 1
(DESIGN CHOICE); no step stops the machine. -/
def Obligations.EveryCommandCompletes : Prop :=
  (∀ s : State, ∃ t, step s = .next t) ∧
  (∀ s : State, Inv s → s.mode = .busy →
    ∃ n t, Host.Core.run core n s = .next t ∧ t.mode = .idle ∧ t.respValid = true ∧ t.cw = s.cw ∧ t.src = s.src ∧
      (match decode s.cw with
       | .ok (.decodeToRgb _ w h _) => n ≤ w.toNat * h.toNat + 1
       | .ok (.decodeToHsl _ w h _) => n ≤ w.toNat * h.toNat + 1
       | _ => n = 1))

/-- R14: the layout of STATUS in every state, and BUSY and RESP_VALID never both 1 in a state the machine can be in. -/
def Obligations.StatusWordLayout : Prop :=
  (∀ s : State,
    (statusWord s).toNat % 2 = (if s.mode = .busy then 1 else 0) ∧
    (statusWord s).toNat / 2 % 2 = (if s.respValid = true then 1 else 0) ∧
    (statusWord s).toNat / 4 % 4 = (match s.kind with | .ok => 0 | .nothing => 1 | .fault => 2) ∧
    (statusWord s).toNat / 16 % 16 = (match s.code with | .noFault => 0 | .illegalCmd => 1 | .bounds => 2) ∧
    (statusWord s).toNat / 256 = s.opc.toNat) ∧
  (∀ s : State, Inv s → (statusWord s).toNat % 4 ≠ 3 ∧ (s.mode = .busy → statusWord s = 1#32))

/-- R11, R21, R36, R20: a step writes the latch only by accepting, never changes SRC, and in a started frame changes OUT
only by appending at most one element. -/
def Obligations.StepWritesOnlyWhatItMay : Prop :=
  ∀ s t : State, step s = .next t →
    t.src = s.src ∧ (∀ a, Memory.read t.src a = Memory.read s.src a) ∧
    (t.cw = s.cw ∨ (s.mode = .idle ∧ s.port = some t.cw)) ∧
    (s.mode = .busy → t.port = s.port) ∧
    (s.mode = .busy → s.outKind ≠ .none →
      t.outKind = s.outKind ∧ ∃ l : List OutElem, l.length ≤ 1 ∧ t.out = s.out ++ l)

/-- R15: the position moves only by the start of a frame command, to (0, 0, 0), or in a started one by one pixel in
row-major order with one element appended: the column wraps to 0 and the row advances exactly where `i + 1` is the
width of the command in flight. -/
def Obligations.PositionMovesOnePixelAtATime : Prop :=
  ∀ s t : State, step s = .next t →
    KeepsPosition s t ∨
    (s.mode = .busy ∧ ∃ k bv w h len, decode s.cw = .ok (frameInstr k bv w h len) ∧
      ((s.outKind = .none ∧ t.outKind = outKindOf k ∧ t.j = 0 ∧ t.i = 0 ∧ t.yp = 0) ∨
       (s.outKind ≠ .none ∧ s.j < h.toNat ∧ t.yp = s.yp + 1 ∧ t.out.length = s.out.length + 1 ∧
        t.i = (if s.i + 1 = w.toNat then 0 else s.i + 1) ∧ t.j = (if s.i + 1 = w.toNat then s.j + 1 else s.j))))

/-- R3, R22, R146: what the host sees of a command depends on the command and on SRC alone: two idle instances that
differ in anything else, the response and OUT of an earlier command and the unspecified registers of reset among it,
look alike after every step from acceptance on. -/
def Obligations.CommandsAreIndependentOfEarlierState : Prop :=
  ∀ (s t : State) (c : Cmd), s.mode = .idle → t.mode = .idle → s.port = some c → t.port = some c → s.src = t.src →
    ∀ n : Nat, ∃ s' t', Host.Core.run core (n + 1) s = .next s' ∧ Host.Core.run core (n + 1) t = .next t' ∧
      s'.mode = t'.mode ∧ SameView s' t'

/-- R160, R22: the reset signal gives MODE IDLE, STATUS 0, RES 0, OUT empty with kind NONE, whatever was in flight, and
does not touch SRC. -/
def Obligations.ResetSignalGivesTheResetValues : Prop :=
  ∀ s : State, ∃ t, hostMove .reset s = some t ∧ t.mode = .idle ∧ statusWord t = 0#32 ∧ t.res = ⟨0#32, 0#32, 0#32, 0#32⟩ ∧
    t.outKind = .none ∧ t.out = [] ∧ t.src = s.src ∧ statusWord State.reset = 0#32 ∧ State.reset.out = []

/-- R51, R42, R30, of the duties of R150 the three that are moves or readings of the model (log entry 10): the host has
no move that presents a command to a BUSY instance or writes SRC under a frame command
that names it, and reads OUT only while RESP_VALID is 1. -/
def Obligations.HostMovesRespectTheDuties : Prop :=
  (∀ (c : Cmd) (s : State), s.mode = .busy → hostMove (.present c) s = none) ∧
  (∀ (c : Cmd) (s : State), s.mode = .idle → s.port = none →
    ∃ t, hostMove (.present c) s = some t ∧ t.port = some c ∧ t.src = s.src ∧ SameView s t) ∧
  (∀ (k : FrameKind) (w h len : Word) (idx : Nat) (b : Byte) (s : State),
    (s.port = some (encode (frameInstr k true w h len)) ∨
      (s.mode = .busy ∧ s.cw = encode (frameInstr k true w h len))) →
    hostMove (.writeSrc idx b) s = none) ∧
  (∀ s : State, (hostReadOut s = none ↔ s.respValid = false) ∧
    (s.respValid = true → hostReadOut s = some (s.outKind, s.out)))

/-- R30: a byte the host writes into SRC reads back and every other byte stays, from every buffer in canonical form;
the host has that move whenever no frame command that names SRC is presented or in flight. -/
def Obligations.HostWriteChangesOneByte : Prop :=
  ∀ (s : State) (a : Nat) (b : Byte), Memory.wf s.src = true → srcFrozen s = false →
    ∃ t, hostMove (.writeSrc a b) s = some t ∧ Memory.read t.src a = b ∧
      (∀ x, x ≠ a → Memory.read t.src x = Memory.read s.src x) ∧
      t.cw = s.cw ∧ t.port = s.port ∧ KeepsPosition s t ∧ KeepsChroma s t ∧ KeepsOut s t ∧ KeepsResponse s t

/-- R152: under any schedule of the instances' steps, an instance is in the state its own steps alone would put it in. -/
def Obligations.InstancesDoNotAffectEachOther : Prop :=
  ∀ (ks : List Nat) (is : List State) (l : Nat) (s : State), is[l]? = some s →
    ∃ t, Host.Core.run core (ks.count l) s = .next t ∧ (runSchedule ks is)[l]? = some t

/-! ### Floats at the special values -/

/-- R71, R72: the IEEE 754 default results at zero divisors, infinities and NaN, and the sign of a zero: a finite
`a > 0` divided by +0.0 is +Inf, +Inf times a positive finite float is +Inf, an invalid operation gives NaN, NaN gives
NaN, and an exact zero sum is +0.0 unless both operands are negative zeros. -/
def Obligations.FloatSpecialValues : Prop :=
  (∀ a : Flt, a.finite = true → 0 < a.val → fdiv a (fzero false) = .inf false ∧
    fmul (.inf false) a = .inf false ∧ fmul a (.inf false) = .inf false) ∧
  (∀ (a : Flt) (s : Bool), a.finite = true →
    (a.val ≠ 0 → fdiv a (fzero s) = .inf (a.negative ^^ s) ∧
      fmul (.inf s) a = .inf (s ^^ a.negative) ∧ fmul a (.inf s) = .inf (a.negative ^^ s)) ∧
    (a.val = 0 → fdiv a (fzero s) = .nan ∧ fmul (.inf s) a = .nan ∧ fmul a (.inf s) = .nan) ∧
    fadd (.inf s) a = .inf s ∧ fadd a (.inf s) = .inf s ∧ fsub (.inf s) a = .inf s ∧ fsub a (.inf s) = .inf (!s) ∧
    fdiv (.inf s) a = .inf (s ^^ a.negative) ∧ fdiv a (.inf s) = fzero (a.negative ^^ s)) ∧
  (∀ s t : Bool, fadd (.inf s) (.inf t) = (if s = t then .inf s else .nan) ∧
    fsub (.inf s) (.inf t) = (if s = t then .nan else .inf s) ∧
    fmul (.inf s) (.inf t) = .inf (s ^^ t) ∧ fdiv (.inf s) (.inf t) = .nan) ∧
  (∀ a : Flt, fadd a .nan = .nan ∧ fadd .nan a = .nan ∧ fsub a .nan = .nan ∧ fsub .nan a = .nan ∧
    fmul a .nan = .nan ∧ fmul .nan a = .nan ∧ fdiv a .nan = .nan ∧ fdiv .nan a = .nan) ∧
  (∀ a b : Flt, a.finite = true → b.finite = true →
    (a.val + b.val = 0 → fadd a b = fzero (a.negative && b.negative)) ∧
    (a.val - b.val = 0 → fsub a b = fzero (a.negative && !b.negative)) ∧
    (a.val * b.val = 0 → fmul a b = fzero (a.negative ^^ b.negative)) ∧
    (b.val ≠ 0 → a.val = 0 → fdiv a b = fzero (a.negative ^^ b.negative)))

/-! ### Internal parallelism -/

/-- R124: whatever order the pixels of a presented frame command are taken in, the answer is the one the steps in
row-major order give: the same response, and slot by slot the same OUT. What an instance answers in another order is the
model's `answerInOrder` (log entry 12, DESIGN CHOICE): it has built in that after a missing byte only the pixels before
the first missing one count, as R124 asks of such an instance. -/
def Obligations.EveryPixelOrderGivesTheSequentialAnswer : Prop :=
  ∀ (k : FrameKind) (w h len : Word) (s : State) (order : List Nat), Presented (frameInstr k true w h len) s →
    len ≠ 0#32 → allowedOrder Config.internalParallelism (w.toNat * h.toNat) order →
    ∃ n t, Host.Core.run core n s = .next t ∧
      Responded { s with cw := encode (frameInstr k true w h len) } t
        (answerInOrder k s.src (frameArgs w h len) order).kind (answerInOrder k s.src (frameArgs w h len) order).code
        (answerInOrder k s.src (frameArgs w h len) order).res ∧
      t.outKind = outKindOf k ∧ t.out.map some = (answerInOrder k s.src (frameArgs w h len) order).slots

/-! ### The element of a pixel and the floats of the HSL datapath, written out -/

/-- R117 to R120: the element of OUT for a pixel, from its Y byte at `row * width + col` and its V and U bytes at
`width * height + (row / 2) * width + 2 * (col / 2)` and the index after it: the packed pixel for DECODE_TO_RGB, the
truncated floats of `hsl_core` on the clamped 18-bit channels, not rescaled, for DECODE_TO_HSL. -/
def Obligations.ElementIsThePackedPixelOrTheHslTriple : Prop :=
  (∀ c : Rgb18, elemOf .rgb c = .rgb (packRgb18 c) ∧
    elemOf .hsl c = .hsl (f2i (hslCore c.r c.g c.b).hf) (f2i (hslCore c.r c.g c.b).sf) (f2i (hslCore c.r c.g c.b).lf)) ∧
  (∀ (k : FrameKind) (m : List Host.Cell) (w h n : Nat),
    let row := n / w
    let col := n % w
    let chroma := w * h + row / 2 * w + 2 * (col / 2)
    pixelElem k m w h n = elemOf k (convert (max ((byteAt m (row * w + col) : Int) - 16) 0)
      ((byteAt m (chroma + 1) : Int) - 128) ((byteAt m chroma : Int) - 128)))

/-- R75 to R81: the untruncated floats of `hsl_core`, which RGB_TO_HSL and DECODE_TO_HSL truncate and BRIGHTNESS_SCORE
uses as they are (R87), by the seven steps written out in the rules' order. -/
def Obligations.HslCoreFollowsTheSteps : Prop :=
  ∀ r g b : Nat,
    let rf := fdiv (i2f r) (i2f 255)
    let gf := fdiv (i2f g) (i2f 255)
    let bf := fdiv (i2f b) (i2f 255)
    let minC := min3 rf gf bf
    let maxC := max3 rf gf bf
    let range := fsub maxC minC
    let sumC := fadd maxC minC
    let l3 := fdiv sumC (i2f 2)
    let s5 := if feq range (fzero false) = true then fzero false
      else if fgt l3 (roundFlt false 1 2 0) = true then fdiv range (fsub (i2f 2) range) else fdiv range sumC
    let h6 := if feq range (fzero false) = true then fzero false
      else if feq rf maxC = true then fdiv (fsub bf gf) range
      else if feq gf maxC = true then fadd (i2f 2) (fdiv (fsub bf rf) range)
      else fadd (i2f 4) (fdiv (fsub rf gf) range)
    let h60 := fmul h6 (i2f 60)
    (hslCore r g b).hf = (if flt h60 (fzero false) = true then fadd h60 (i2f 360) else h60) ∧
    (hslCore r g b).sf = fmul s5 (i2f 100) ∧
    (hslCore r g b).lf = fmul l3 (i2f 100)
end

