-- ==== Sys2Proof/Laws/Bits.lean ====
section
/-! SUPPORT. Every word the model builds from fields, and every field it takes from a word, as a number; so that later
proofs are arithmetic. -/

namespace Sys2Proof.Laws

open Sys2Proof Sys2Proof.Machine

theorem toNat_append {m n : Nat} (x : BitVec m) (y : BitVec n) : (x ++ y).toNat = x.toNat * 2 ^ n + y.toNat := by
  rw [BitVec.toNat_append, Nat.shiftLeft_eq, ← Nat.shiftLeft_eq, Nat.shiftLeft_add_eq_or_of_lt y.isLt]

/-! ### Fields of a command word -/

theorem opc_toNat (c : Cmd) : c.opc.toNat = c.w0.toNat % 256 := by simp [Cmd.opc]

theorem reserved_toNat (c : Cmd) : c.reserved.toNat = c.w0.toNat / 512 := by
  have := c.w0.isLt
  simp only [Cmd.reserved, BitVec.extractLsb'_toNat, Nat.shiftRight_eq_div_pow]
  omega

theorem bv_eq_true (c : Cmd) : c.bv = true ↔ c.w0.toNat / 256 % 2 = 1 := by
  simp only [Cmd.bv, beq_iff_eq, ← BitVec.toNat_inj, BitVec.extractLsb'_toNat, Nat.shiftRight_eq_div_pow]
  exact Iff.rfl

theorem encodeWord0_toNat (opc : Byte) (bv : Bool) : (encodeWord0 opc bv).toNat = opc.toNat + if bv then 256 else 0 := by
  have h : opc.toNat < 2 ^ 8 := opc.isLt
  cases bv
  · simp [encodeWord0, Nat.mod_eq_of_lt (show opc.toNat < 4294967296 by omega)]
  · have e := Nat.two_pow_add_eq_or_of_lt h 1
    have : (encodeWord0 opc true).toNat = opc.toNat % 4294967296 ||| 256 := by simp [encodeWord0]
    rw [this, Nat.mod_eq_of_lt (by omega), Nat.or_comm, ← e]
    simp; omega

/-- The four words of a command as one number (R50). -/
theorem bits_toNat (c : Cmd) :
    c.bits.toNat = c.w0.toNat + c.w1.toNat * 2 ^ 32 + c.w2.toNat * 2 ^ 64 + c.w3.toNat * 2 ^ 96 := by
  have : c.bits.toNat = (c.w3 ++ c.w2 ++ c.w1 ++ c.w0 : BitVec (32 + 32 + 32 + 32)).toNat := rfl
  rw [this]; simp only [toNat_append]; omega

theorem wordOfBytes_toNat (b0 b1 b2 b3 : Byte) :
    (wordOfBytes b0 b1 b2 b3).toNat = b0.toNat + b1.toNat * 2 ^ 8 + b2.toNat * 2 ^ 16 + b3.toNat * 2 ^ 24 := by
  have : (wordOfBytes b0 b1 b2 b3).toNat = (b3 ++ b2 ++ b1 ++ b0 : BitVec (8 + 8 + 8 + 8)).toNat := rfl
  rw [this]; simp only [toNat_append]; omega

/-! ### Packed pixels -/

theorem pixelAlpha_toNat (p : Word) : (pixelAlpha p).toNat = p.toNat / 2 ^ 24 := by
  have := p.isLt
  simp only [pixelAlpha, BitVec.extractLsb'_toNat, Nat.shiftRight_eq_div_pow]; omega

theorem pixelRed_toNat (p : Word) : (pixelRed p).toNat = p.toNat / 2 ^ 16 % 256 := by
  simp only [pixelRed, BitVec.extractLsb'_toNat, Nat.shiftRight_eq_div_pow]

theorem pixelGreen_toNat (p : Word) : (pixelGreen p).toNat = p.toNat / 2 ^ 8 % 256 := by
  simp only [pixelGreen, BitVec.extractLsb'_toNat, Nat.shiftRight_eq_div_pow]

theorem pixelBlue_toNat (p : Word) : (pixelBlue p).toNat = p.toNat % 256 := by
  simp [pixelBlue]

theorem packArgb_toNat (a r g b : Byte) :
    (packArgb a r g b).toNat = a.toNat * 2 ^ 24 + r.toNat * 2 ^ 16 + g.toNat * 2 ^ 8 + b.toNat := by
  have : (packArgb a r g b).toNat = (a ++ r ++ g ++ b : BitVec (8 + 8 + 8 + 8)).toNat := rfl
  rw [this]; simp only [toNat_append]; omega

/-! ### STATUS -/

theorem statusWord_toNat (s : State) :
    (statusWord s).toNat = s.opc.toNat * 256 + (codeBits s.code).toNat * 16 + (kindBits s.kind).toNat * 4 +
      s.respValid.toNat * 2 + (busyBit s.mode).toNat := by
  have : (statusWord s).toNat = (0#16 ++ s.opc ++ codeBits s.code ++ kindBits s.kind ++ BitVec.ofBool s.respValid ++
      BitVec.ofBool (busyBit s.mode) : BitVec (16 + 8 + 4 + 2 + 1 + 1)).toNat := rfl
  rw [this]; simp only [toNat_append, BitVec.toNat_ofBool]; simp; omega

end Sys2Proof.Laws
end

