-- ==== Sys2Proof/Laws/Config.lean ====
section
/-! SUPPORT. The types of the model have the widths and counts that Config names (00_scope.md R4). -/

namespace Sys2Proof.Laws

open Sys2Proof Sys2Proof.Machine

theorem word_is_wordBits_wide : Word = BitVec Config.wordBits := rfl

theorem words_length (c : Cmd) : c.words.length = Config.cmdWords := rfl

theorem hostReadResponse_length (s : State) : (hostReadResponse s).length = Config.respWords := rfl

/-- Each dimension and LEN is below `2^DIM_BITS`. -/
theorem frameArgs_lt (w h n : Word) :
    (frameArgs w h n).width < 2 ^ Config.dimBits ∧ (frameArgs w h n).height < 2 ^ Config.dimBits ∧
      (frameArgs w h n).len < 2 ^ Config.dimBits := ⟨w.isLt, h.isLt, n.isLt⟩

/-- ADDR: an index is the exact number. -/
@[simp] theorem indexValue_natural (n : Nat) : indexValue .natural n = n := rfl

theorem frameSize_eq (a : FrameArgs) : frameSize a = a.width * a.height := rfl

/-- The chroma pointer at the start of a row, and between its pixels. -/
theorem chromaPointer_eq (width height i j uvp : Nat) :
    chromaPointer width height i j uvp = if i = 0 then width * height + j / 2 * width else uvp := by
  simp [chromaPointer, Nat.shiftRight_eq_div_pow]

end Sys2Proof.Laws
end

