-- ==== Sys2Proof/Laws/Memory.lean ====
section
/-! SUPPORT. SRC keeps its canonical form under every memory operation. -/

namespace Sys2Proof.Laws

open Sys2Proof Sys2Proof.Machine

theorem wfFrom_mono {lo hi : Nat} {m : Memory} (h : lo ≤ hi) (hm : Memory.wfFrom hi m = true) :
    Memory.wfFrom lo m = true := by
  cases m with
  | nil => rfl
  | cons p m =>
    simp only [Memory.wfFrom, Bool.and_eq_true, decide_eq_true_eq] at hm ⊢
    exact ⟨⟨h.trans hm.1.1, hm.1.2⟩, hm.2⟩

theorem cons_keeps_wfFrom {lo a : Nat} {c : Byte} {m : Memory} (ha : lo ≤ a)
    (hm : Memory.wfFrom (a + 1) m = true) : Memory.wfFrom lo (Memory.cons a c m) = true := by
  unfold Memory.cons
  split
  · exact wfFrom_mono (by omega) hm
  · simp_all [Memory.wfFrom]

theorem write_keeps_wfFrom {m : Memory} {lo a : Nat} {c : Byte} (ha : lo ≤ a)
    (hm : Memory.wfFrom lo m = true) : Memory.wfFrom lo (Memory.write m a c) = true := by
  induction m generalizing lo with
  | nil => exact cons_keeps_wfFrom ha rfl
  | cons p m ih =>
    obtain ⟨b, d⟩ := p
    simp only [Memory.wfFrom, Bool.and_eq_true, decide_eq_true_eq] at hm
    obtain ⟨⟨hlo, hd⟩, hrest⟩ := hm
    simp only [Memory.write]
    split
    · refine cons_keeps_wfFrom ha ?_
      simp_all [Memory.wfFrom]
    split
    · next h => exact cons_keeps_wfFrom ha (by simpa [h] using hrest)
    · simp only [Memory.wfFrom, Bool.and_eq_true, decide_eq_true_eq]
      exact ⟨⟨hlo, hd⟩, ih (by omega) hrest⟩

/-- The host's write keeps the canonical form. -/
theorem write_keeps_wf {m : Memory} (a : Nat) (c : Byte) (hm : Memory.wf m = true) :
    Memory.wf (Memory.write m a c) = true := write_keeps_wfFrom (Nat.zero_le a) hm

theorem ofBytesFrom_wfFrom (lo : Nat) (cs : List Byte) : Memory.wfFrom lo (Memory.ofBytesFrom lo cs) = true := by
  induction cs generalizing lo with
  | nil => rfl
  | cons c cs ih => exact cons_keeps_wfFrom (le_refl lo) (ih (lo + 1))

/-- A placed buffer is in canonical form. -/
theorem ofBytes_wf (cs : List Byte) : Memory.wf (Memory.ofBytes cs) = true := ofBytesFrom_wfFrom 0 cs

/-- The buffer at reset is in canonical form. -/
theorem reset_src_wf : Memory.wf State.reset.src = true := rfl

/-- Below its first entry a canonical buffer lists nothing. -/
theorem read_below {m : Memory} {lo a : Nat} (hm : Memory.wfFrom lo m = true) (ha : a < lo) :
    Memory.read m a = unlistedByte := by
  induction m generalizing lo with
  | nil => rfl
  | cons p m ih =>
    simp only [Memory.wfFrom, Bool.and_eq_true, decide_eq_true_eq] at hm
    rw [Memory.read, if_neg (by omega)]
    exact ih hm.2 (by omega)

end Sys2Proof.Laws
end

