-- ==== Sys2Proof/Laws/Parallel.lean ====
section
/-! SUPPORT. What the slots of OUT and the first missing pixel are, said once. -/

namespace Sys2Proof.Laws

open Sys2Proof Sys2Proof.Machine

/-- Filling slots changes no length. -/
theorem fillSlots_length (k : FrameKind) (m : List Host.Cell) (w h : Nat) (order : List Nat) (slots : List (Option OutElem)) :
    (fillSlots k m w h order slots).length = slots.length := by
  induction order generalizing slots with
  | nil => rfl
  | cons n order ih => simp [fillSlots, ih]

/-- A slot holds its pixel's element when the order names it, and what it held when it does not. -/
theorem fillSlots_getElem? (k : FrameKind) (m : List Host.Cell) (w h : Nat) (order : List Nat)
    (slots : List (Option OutElem)) (p : Nat) (hp : p < slots.length) :
    (fillSlots k m w h order slots)[p]? = if p ∈ order then some (some (pixelElem k m w h p)) else slots[p]? := by
  induction order generalizing slots with
  | nil => simp [fillSlots]
  | cons n order ih =>
    rw [fillSlots, ih _ (by simpa using hp)]
    by_cases hm : p ∈ order
    · simp [hm]
    · by_cases e : p = n
      · subst e; simp [hm, hp]
      · simp [hm, e, List.getElem?_set_ne (Ne.symm e)]

/-- No pixel is missing exactly when every pixel of the order fits. -/
theorem leastMissing_eq_none {w h len : Nat} {order : List Nat} :
    leastMissing w h len order = none ↔ ∀ n ∈ order, readsFit w h len n := by
  induction order with
  | nil => simp [leastMissing]
  | cons n order ih =>
    by_cases hn : readsFit w h len n
    · rw [leastMissing, if_pos hn, ih, List.forall_mem_cons]
      exact ⟨fun e => ⟨hn, e⟩, And.right⟩
    · rw [leastMissing, if_neg hn]
      refine ⟨fun e => ?_, fun e => absurd (e n (by simp)) hn⟩
      split at e <;> cases e

end Sys2Proof.Laws
end

