-- ==== Sys2Proof/Laws/PerInstr.lean ====
section
/-! SUPPORT. Statements made per instruction: the words of every well-formed command select the row of the opcode map
that has its mnemonic (30_encoding.md R54). -/

namespace Sys2Proof.Laws.EncodesItsRow

open Sys2Proof

/-- The words of a well-formed command select its own row. -/
def Statement (i : Instr) : Prop :=
  i.wellFormed = true → ∃ row ∈ opcodeTable, row.mnemonic = i.mnemonic ∧ (encode i).selects row = true

/-- Masking a command is masking its words. -/
theorem bits_and (w0 w1 w2 w3 m0 m1 m2 m3 : Word) :
    (⟨w0, w1, w2, w3⟩ : Cmd).bits &&& (⟨m0, m1, m2, m3⟩ : Cmd).bits =
      (⟨w0 &&& m0, w1 &&& m1, w2 &&& m2, w3 &&& m3⟩ : Cmd).bits := by
  show (w3 ++ w2 ++ w1 ++ w0 : BitVec (32 + 32 + 32 + 32)) &&& (m3 ++ m2 ++ m1 ++ m0 : BitVec (32 + 32 + 32 + 32)) =
    ((w3 &&& m3) ++ (w2 &&& m2) ++ (w1 &&& m1) ++ (w0 &&& m0) : BitVec (32 + 32 + 32 + 32))
  simp only [BitVec.and_append]

/-- Selecting a row, word by word. -/
theorem selects_of_words {c : Cmd} {row : OpcodeRow} (m e : Cmd) (hm : row.opcMask = m.bits) (he : row.opcMatch = e.bits)
    (h0 : c.w0 &&& m.w0 = e.w0) (h1 : c.w1 &&& m.w1 = e.w1) (h2 : c.w2 &&& m.w2 = e.w2) (h3 : c.w3 &&& m.w3 = e.w3) :
    c.selects row = true := by
  have : c.bits &&& m.bits = e.bits := by
    rw [bits_and c.w0 c.w1 c.w2 c.w3 m.w0 m.w1 m.w2 m.w3, h0, h1, h2, h3]
  simp [Cmd.selects, hm, he, this]

/-- A channel that fits has no bit of the channel mask. -/
theorem channelFits_masked {w : Word} (hw : channelFits w = true) : w &&& 0xFFFC0000#32 = 0#32 := by
  have hw : w.toNat < 2 ^ 18 := by have : w.toNat ≤ 262143 := by simpa [channelFits] using hw
                                   omega
  have e : (0xFFFC0000#32).toNat = (2 ^ 14 - 1) <<< 18 := by decide
  apply BitVec.eq_of_toNat_eq
  rw [BitVec.toNat_and, e]
  apply Nat.eq_of_testBit_eq
  intro k
  rw [Nat.testBit_and, Nat.testBit_shiftLeft]
  by_cases hk : 18 ≤ k
  · rw [Nat.testBit_lt_two_pow (lt_of_lt_of_le hw (Nat.pow_le_pow_right (by omega) hk))]; simp
  · simp [hk]

theorem extractArgb (p : Word) : Statement (.extractArgb p) := fun _ =>
  ⟨opcodeTable[0], by decide, rfl,
    selects_of_words ⟨0xFFFFFFFF#32, 0#32, 0xFFFFFFFF#32, 0xFFFFFFFF#32⟩ ⟨1#32, 0#32, 0#32, 0#32⟩
      (by decide) (by decide)
      (show encodeWord0 1#8 false &&& 0xFFFFFFFF#32 = 1#32 by decide) (by simp [encode]) (by simp [encode]) (by simp [encode])⟩

theorem rgbToHsl (r g b : Word) : Statement (.rgbToHsl r g b) := fun h => by
  simp only [Instr.wellFormed, Bool.and_eq_true] at h
  exact ⟨opcodeTable[1], by decide, rfl,
    selects_of_words ⟨0xFFFFFFFF#32, 0xFFFC0000#32, 0xFFFC0000#32, 0xFFFC0000#32⟩ ⟨2#32, 0#32, 0#32, 0#32⟩
      (by decide) (by decide)
      (show encodeWord0 2#8 false &&& 0xFFFFFFFF#32 = 2#32 by decide) (channelFits_masked h.1.1) (channelFits_masked h.1.2) (channelFits_masked h.2)⟩

theorem brightnessScore (p : Word) : Statement (.brightnessScore p) := fun _ =>
  ⟨opcodeTable[2], by decide, rfl,
    selects_of_words ⟨0xFFFFFFFF#32, 0#32, 0xFFFFFFFF#32, 0xFFFFFFFF#32⟩ ⟨3#32, 0#32, 0#32, 0#32⟩
      (by decide) (by decide)
      (show encodeWord0 3#8 false &&& 0xFFFFFFFF#32 = 3#32 by decide) (by simp [encode]) (by simp [encode]) (by simp [encode])⟩

theorem decodeToRgb (bv : Bool) (w h n : Word) : Statement (.decodeToRgb bv w h n) := fun _ =>
  ⟨opcodeTable[3], by decide, rfl,
    selects_of_words ⟨0xFFFFFEFF#32, 0#32, 0#32, 0#32⟩ ⟨4#32, 0#32, 0#32, 0#32⟩
      (by decide) (by decide)
      (show encodeWord0 4#8 bv &&& 0xFFFFFEFF#32 = 4#32 by cases bv <;> decide) (by simp [encode]) (by simp [encode]) (by simp [encode])⟩

theorem decodeToHsl (bv : Bool) (w h n : Word) : Statement (.decodeToHsl bv w h n) := fun _ =>
  ⟨opcodeTable[4], by decide, rfl,
    selects_of_words ⟨0xFFFFFEFF#32, 0#32, 0#32, 0#32⟩ ⟨5#32, 0#32, 0#32, 0#32⟩
      (by decide) (by decide)
      (show encodeWord0 5#8 bv &&& 0xFFFFFEFF#32 = 5#32 by cases bv <;> decide) (by simp [encode]) (by simp [encode]) (by simp [encode])⟩

end Sys2Proof.Laws.EncodesItsRow
end

