-- ==== Sys2Proof/Laws/State.lean ====
section
/-! SUPPORT. For every update of the state, what each field holds after it; all true by definition. -/

namespace Sys2Proof.Laws

open Sys2Proof Sys2Proof.Machine

/-! ### accept -/

section accept
variable (c : Cmd) (s : State)

@[simp] theorem accept_port : (accept c s).port = none := rfl
@[simp] theorem accept_cw : (accept c s).cw = c := rfl
@[simp] theorem accept_mode : (accept c s).mode = .busy := rfl
@[simp] theorem accept_respValid : (accept c s).respValid = false := rfl
@[simp] theorem accept_kind : (accept c s).kind = .ok := rfl
@[simp] theorem accept_code : (accept c s).code = .noFault := rfl
@[simp] theorem accept_opc : (accept c s).opc = 0#8 := rfl
@[simp] theorem accept_res : (accept c s).res = Res.zero := rfl
@[simp] theorem accept_j : (accept c s).j = s.j := rfl
@[simp] theorem accept_i : (accept c s).i = s.i := rfl
@[simp] theorem accept_yp : (accept c s).yp = s.yp := rfl
@[simp] theorem accept_uvp : (accept c s).uvp = s.uvp := rfl
@[simp] theorem accept_u : (accept c s).u = s.u := rfl
@[simp] theorem accept_v : (accept c s).v = s.v := rfl
@[simp] theorem accept_outKind : (accept c s).outKind = .none := rfl
@[simp] theorem accept_out : (accept c s).out = [] := rfl
@[simp] theorem accept_src : (accept c s).src = s.src := rfl

end accept

/-! ### respond -/

section respond
variable (k : RespKind) (c : FaultCode) (r : Res) (s : State)

@[simp] theorem respond_port : (respond k c r s).port = s.port := rfl
@[simp] theorem respond_cw : (respond k c r s).cw = s.cw := rfl
@[simp] theorem respond_mode : (respond k c r s).mode = .idle := rfl
@[simp] theorem respond_respValid : (respond k c r s).respValid = true := rfl
@[simp] theorem respond_kind : (respond k c r s).kind = k := rfl
@[simp] theorem respond_code : (respond k c r s).code = c := rfl
@[simp] theorem respond_opc : (respond k c r s).opc = s.cw.opc := rfl
@[simp] theorem respond_res : (respond k c r s).res = r := rfl
@[simp] theorem respond_j : (respond k c r s).j = s.j := rfl
@[simp] theorem respond_i : (respond k c r s).i = s.i := rfl
@[simp] theorem respond_yp : (respond k c r s).yp = s.yp := rfl
@[simp] theorem respond_uvp : (respond k c r s).uvp = s.uvp := rfl
@[simp] theorem respond_u : (respond k c r s).u = s.u := rfl
@[simp] theorem respond_v : (respond k c r s).v = s.v := rfl
@[simp] theorem respond_outKind : (respond k c r s).outKind = s.outKind := rfl
@[simp] theorem respond_out : (respond k c r s).out = s.out := rfl
@[simp] theorem respond_src : (respond k c r s).src = s.src := rfl

end respond

/-! ### memWrite -/

section memWrite
variable (e : OutElem) (s : State)

@[simp] theorem memWrite_port : (memWrite e s).port = s.port := rfl
@[simp] theorem memWrite_cw : (memWrite e s).cw = s.cw := rfl
@[simp] theorem memWrite_mode : (memWrite e s).mode = s.mode := rfl
@[simp] theorem memWrite_respValid : (memWrite e s).respValid = s.respValid := rfl
@[simp] theorem memWrite_kind : (memWrite e s).kind = s.kind := rfl
@[simp] theorem memWrite_code : (memWrite e s).code = s.code := rfl
@[simp] theorem memWrite_opc : (memWrite e s).opc = s.opc := rfl
@[simp] theorem memWrite_res : (memWrite e s).res = s.res := rfl
@[simp] theorem memWrite_j : (memWrite e s).j = s.j := rfl
@[simp] theorem memWrite_i : (memWrite e s).i = s.i := rfl
@[simp] theorem memWrite_yp : (memWrite e s).yp = s.yp := rfl
@[simp] theorem memWrite_uvp : (memWrite e s).uvp = s.uvp := rfl
@[simp] theorem memWrite_u : (memWrite e s).u = s.u := rfl
@[simp] theorem memWrite_v : (memWrite e s).v = s.v := rfl
@[simp] theorem memWrite_outKind : (memWrite e s).outKind = s.outKind := rfl
@[simp] theorem memWrite_out : (memWrite e s).out = s.out ++ [e] := rfl
@[simp] theorem memWrite_src : (memWrite e s).src = s.src := rfl

end memWrite

/-! ### startFrame -/

section startFrame
variable (k : FrameKind) (s : State)

@[simp] theorem startFrame_port : (startFrame k s).port = s.port := rfl
@[simp] theorem startFrame_cw : (startFrame k s).cw = s.cw := rfl
@[simp] theorem startFrame_mode : (startFrame k s).mode = s.mode := rfl
@[simp] theorem startFrame_respValid : (startFrame k s).respValid = s.respValid := rfl
@[simp] theorem startFrame_kind : (startFrame k s).kind = s.kind := rfl
@[simp] theorem startFrame_code : (startFrame k s).code = s.code := rfl
@[simp] theorem startFrame_opc : (startFrame k s).opc = s.opc := rfl
@[simp] theorem startFrame_res : (startFrame k s).res = s.res := rfl
@[simp] theorem startFrame_j : (startFrame k s).j = 0 := rfl
@[simp] theorem startFrame_i : (startFrame k s).i = 0 := rfl
@[simp] theorem startFrame_yp : (startFrame k s).yp = 0 := rfl
@[simp] theorem startFrame_uvp : (startFrame k s).uvp = s.uvp := rfl
@[simp] theorem startFrame_u : (startFrame k s).u = s.u := rfl
@[simp] theorem startFrame_v : (startFrame k s).v = s.v := rfl
@[simp] theorem startFrame_outKind : (startFrame k s).outKind = outKindOf k := rfl
@[simp] theorem startFrame_out : (startFrame k s).out = [] := rfl
@[simp] theorem startFrame_src : (startFrame k s).src = s.src := rfl

end startFrame

/-! ### rowStart -/

section rowStart
variable (a : FrameArgs) (s : State)

@[simp] theorem rowStart_port : (rowStart a s).port = s.port := rfl
@[simp] theorem rowStart_cw : (rowStart a s).cw = s.cw := rfl
@[simp] theorem rowStart_mode : (rowStart a s).mode = s.mode := rfl
@[simp] theorem rowStart_respValid : (rowStart a s).respValid = s.respValid := rfl
@[simp] theorem rowStart_kind : (rowStart a s).kind = s.kind := rfl
@[simp] theorem rowStart_code : (rowStart a s).code = s.code := rfl
@[simp] theorem rowStart_opc : (rowStart a s).opc = s.opc := rfl
@[simp] theorem rowStart_res : (rowStart a s).res = s.res := rfl
@[simp] theorem rowStart_j : (rowStart a s).j = s.j := rfl
@[simp] theorem rowStart_i : (rowStart a s).i = s.i := rfl
@[simp] theorem rowStart_yp : (rowStart a s).yp = s.yp := rfl
@[simp] theorem rowStart_uvp : (rowStart a s).uvp = chromaPointer a.width a.height s.i s.j s.uvp := rfl
@[simp] theorem rowStart_u : (rowStart a s).u = s.u := rfl
@[simp] theorem rowStart_v : (rowStart a s).v = s.v := rfl
@[simp] theorem rowStart_outKind : (rowStart a s).outKind = s.outKind := rfl
@[simp] theorem rowStart_out : (rowStart a s).out = s.out := rfl
@[simp] theorem rowStart_src : (rowStart a s).src = s.src := rfl

end rowStart

/-! ### loadChroma -/

section loadChroma
variable (V U : Nat) (s : State)

@[simp] theorem loadChroma_port : (loadChroma V U s).port = s.port := rfl
@[simp] theorem loadChroma_cw : (loadChroma V U s).cw = s.cw := rfl
@[simp] theorem loadChroma_mode : (loadChroma V U s).mode = s.mode := rfl
@[simp] theorem loadChroma_respValid : (loadChroma V U s).respValid = s.respValid := rfl
@[simp] theorem loadChroma_kind : (loadChroma V U s).kind = s.kind := rfl
@[simp] theorem loadChroma_code : (loadChroma V U s).code = s.code := rfl
@[simp] theorem loadChroma_opc : (loadChroma V U s).opc = s.opc := rfl
@[simp] theorem loadChroma_res : (loadChroma V U s).res = s.res := rfl
@[simp] theorem loadChroma_j : (loadChroma V U s).j = s.j := rfl
@[simp] theorem loadChroma_i : (loadChroma V U s).i = s.i := rfl
@[simp] theorem loadChroma_yp : (loadChroma V U s).yp = s.yp := rfl
@[simp] theorem loadChroma_uvp : (loadChroma V U s).uvp = s.uvp + 2 := rfl
@[simp] theorem loadChroma_u : (loadChroma V U s).u = chromaOffset U := rfl
@[simp] theorem loadChroma_v : (loadChroma V U s).v = chromaOffset V := rfl
@[simp] theorem loadChroma_outKind : (loadChroma V U s).outKind = s.outKind := rfl
@[simp] theorem loadChroma_out : (loadChroma V U s).out = s.out := rfl
@[simp] theorem loadChroma_src : (loadChroma V U s).src = s.src := rfl

end loadChroma

/-! ### advance -/

section advance
variable (a : FrameArgs) (s : State)

@[simp] theorem advance_port : (advance a s).port = s.port := rfl
@[simp] theorem advance_cw : (advance a s).cw = s.cw := rfl
@[simp] theorem advance_mode : (advance a s).mode = s.mode := rfl
@[simp] theorem advance_respValid : (advance a s).respValid = s.respValid := rfl
@[simp] theorem advance_kind : (advance a s).kind = s.kind := rfl
@[simp] theorem advance_code : (advance a s).code = s.code := rfl
@[simp] theorem advance_opc : (advance a s).opc = s.opc := rfl
@[simp] theorem advance_res : (advance a s).res = s.res := rfl
@[simp] theorem advance_j : (advance a s).j = nextRow a.width s.i s.j := rfl
@[simp] theorem advance_i : (advance a s).i = nextCol a.width s.i := rfl
@[simp] theorem advance_yp : (advance a s).yp = s.yp + 1 := rfl
@[simp] theorem advance_uvp : (advance a s).uvp = s.uvp := rfl
@[simp] theorem advance_u : (advance a s).u = s.u := rfl
@[simp] theorem advance_v : (advance a s).v = s.v := rfl
@[simp] theorem advance_outKind : (advance a s).outKind = s.outKind := rfl
@[simp] theorem advance_out : (advance a s).out = s.out := rfl
@[simp] theorem advance_src : (advance a s).src = s.src := rfl

end advance

/-! ### resetSignal -/

section resetSignal
variable (s : State)

@[simp] theorem resetSignal_port : (resetSignal s).port = s.port := rfl
@[simp] theorem resetSignal_cw : (resetSignal s).cw = State.reset.cw := rfl
@[simp] theorem resetSignal_mode : (resetSignal s).mode = State.reset.mode := rfl
@[simp] theorem resetSignal_respValid : (resetSignal s).respValid = State.reset.respValid := rfl
@[simp] theorem resetSignal_kind : (resetSignal s).kind = State.reset.kind := rfl
@[simp] theorem resetSignal_code : (resetSignal s).code = State.reset.code := rfl
@[simp] theorem resetSignal_opc : (resetSignal s).opc = State.reset.opc := rfl
@[simp] theorem resetSignal_res : (resetSignal s).res = State.reset.res := rfl
@[simp] theorem resetSignal_j : (resetSignal s).j = State.reset.j := rfl
@[simp] theorem resetSignal_i : (resetSignal s).i = State.reset.i := rfl
@[simp] theorem resetSignal_yp : (resetSignal s).yp = State.reset.yp := rfl
@[simp] theorem resetSignal_uvp : (resetSignal s).uvp = State.reset.uvp := rfl
@[simp] theorem resetSignal_u : (resetSignal s).u = State.reset.u := rfl
@[simp] theorem resetSignal_v : (resetSignal s).v = State.reset.v := rfl
@[simp] theorem resetSignal_outKind : (resetSignal s).outKind = State.reset.outKind := rfl
@[simp] theorem resetSignal_out : (resetSignal s).out = State.reset.out := rfl
@[simp] theorem resetSignal_src : (resetSignal s).src = s.src := rfl

end resetSignal

/-! ### withFetchWord -/

section withFetchWord
variable (s : State) (nbits w : Nat)

@[simp] theorem withFetchWord_port : (s.withFetchWord nbits w).port = s.port := rfl
@[simp] theorem withFetchWord_cw : (s.withFetchWord nbits w).cw = Cmd.ofTableWord nbits w := rfl
@[simp] theorem withFetchWord_mode : (s.withFetchWord nbits w).mode = .busy := rfl
@[simp] theorem withFetchWord_respValid : (s.withFetchWord nbits w).respValid = false := rfl
@[simp] theorem withFetchWord_kind : (s.withFetchWord nbits w).kind = .ok := rfl
@[simp] theorem withFetchWord_code : (s.withFetchWord nbits w).code = .noFault := rfl
@[simp] theorem withFetchWord_opc : (s.withFetchWord nbits w).opc = 0#8 := rfl
@[simp] theorem withFetchWord_res : (s.withFetchWord nbits w).res = Res.zero := rfl
@[simp] theorem withFetchWord_j : (s.withFetchWord nbits w).j = s.j := rfl
@[simp] theorem withFetchWord_i : (s.withFetchWord nbits w).i = s.i := rfl
@[simp] theorem withFetchWord_yp : (s.withFetchWord nbits w).yp = s.yp := rfl
@[simp] theorem withFetchWord_uvp : (s.withFetchWord nbits w).uvp = s.uvp := rfl
@[simp] theorem withFetchWord_u : (s.withFetchWord nbits w).u = s.u := rfl
@[simp] theorem withFetchWord_v : (s.withFetchWord nbits w).v = s.v := rfl
@[simp] theorem withFetchWord_outKind : (s.withFetchWord nbits w).outKind = .none := rfl
@[simp] theorem withFetchWord_out : (s.withFetchWord nbits w).out = [] := rfl
@[simp] theorem withFetchWord_src : (s.withFetchWord nbits w).src = s.src := rfl

end withFetchWord

/-! ### Operands of a frame command -/

section frame
variable (w h n : Word)

@[simp] theorem frameArgs_width : (frameArgs w h n).width = w.toNat := rfl
@[simp] theorem frameArgs_height : (frameArgs w h n).height = h.toNat := rfl
@[simp] theorem frameArgs_len : (frameArgs w h n).len = n.toNat := rfl
@[simp] theorem frameSize_frameArgs : frameSize (frameArgs w h n) = w.toNat * h.toNat := rfl

end frame

/-! ### Completion by its names -/

section completion
variable (s : State) (r : Res) (c : FaultCode) (w : SrcRead) (a : FrameArgs)

@[simp] theorem respondOk_eq : respondOk r s = respond .ok .noFault r s := rfl
@[simp] theorem respondNothing_eq : respondNothing s = respond .nothing .noFault Res.zero s := rfl
@[simp] theorem raiseFault_eq : raiseFault c r s = respond .fault c r s := rfl
@[simp] theorem raiseIllegal_eq : raiseIllegal s = respond .fault .illegalCmd ⟨s.cw.w0, 0#32, 0#32, 0#32⟩ s := rfl
@[simp] theorem raiseBounds_eq :
    raiseBounds w s = respond .fault .bounds ⟨BitVec.ofNat 32 s.yp, whichWord w, 0#32, 0#32⟩ s := rfl
@[simp] theorem completeFrame_eq :
    completeFrame a s = respond .ok .noFault ⟨BitVec.ofNat 32 (frameSize a), 0#32, 0#32, 0#32⟩ s := rfl

end completion

end Sys2Proof.Laws
end

