-- ==== Sys2Proof/Laws/Step.lean ====
section
/-! SUPPORT. What each shared operation and one step can do, said once: callers cite these and unfold nothing. -/

namespace Sys2Proof.Laws

open Sys2Proof Sys2Proof.Machine

/-- A read succeeds exactly below LEN, with the unsigned byte. -/
theorem memRead_eq_some {len idx x : Nat} {s : State} :
    memRead len s idx = some x ↔ idx < len ∧ x = (Memory.read s.src idx).toNat := by
  unfold memRead
  split <;> simp <;> omega

/-- A read fails exactly at or beyond LEN. -/
theorem memRead_eq_none {len idx : Nat} {s : State} : memRead len s idx = none ↔ len ≤ idx := by
  unfold memRead
  split <;> simp <;> omega

/-- The frame is done exactly when it has no column or no row is left. -/
theorem frameDone_iff {a : FrameArgs} {s : State} : frameDone a s = true ↔ a.width = 0 ∨ a.height ≤ s.j := by
  simp [frameDone, noPixelLeft]

/-- The null check fails exactly on a present buffer of at least one byte. -/
theorem nullBuffer_iff {bv : Bool} {a : FrameArgs} : nullBuffer bv a = true ↔ bv = false ∨ a.len = 0 := by
  simp [nullBuffer]

/-- What the chroma fetch can do. -/
theorem fetchChroma_cases (a : FrameArgs) (s : State) :
    (s.i % 2 = 1 ∧ fetchChroma a s = .ok s) ∨
    (s.i % 2 = 0 ∧ a.len ≤ s.uvp ∧ fetchChroma a s = .error .v) ∨
    (s.i % 2 = 0 ∧ a.len = s.uvp + 1 ∧ fetchChroma a s = .error .u) ∨
    (s.i % 2 = 0 ∧ s.uvp + 1 < a.len ∧ fetchChroma a s =
      .ok (loadChroma (Memory.read s.src s.uvp).toNat (Memory.read s.src (s.uvp + 1)).toNat s)) := by
  rcases Nat.mod_two_eq_zero_or_one s.i with h | h
  · rcases Nat.lt_or_ge s.uvp a.len with hv | hv
    · rcases Nat.lt_or_ge (s.uvp + 1) a.len with hu | hu
      · simp [fetchChroma, memRead, Nat.and_one_is_mod, h, Nat.not_le.mpr hv, Nat.not_le.mpr hu, hu]
      · have e : a.len = s.uvp + 1 := by omega
        simp [fetchChroma, memRead, Nat.and_one_is_mod, h, e]
    · simp [fetchChroma, memRead, Nat.and_one_is_mod, h, hv]
  · simp [fetchChroma, Nat.and_one_is_mod, h]

/-- The state after a pixel whose chroma pair is held in `s2`, before the completion test. -/
def pixelDone (k : FrameKind) (a : FrameArgs) (Y : Nat) (s2 : State) : State :=
  advance a (memWrite (elemOf k (convert (lumaOffset Y) s2.u s2.v)) s2)

/-- What a pixel step can do: a fault at its first failing read, or one more element. -/
theorem pixelStep_cases (k : FrameKind) (a : FrameArgs) (s : State) :
    (a.len ≤ s.yp ∧ pixelStep k a s = raiseBounds .y (rowStart a s)) ∨
    (s.yp < a.len ∧ s.i % 2 = 0 ∧ a.len ≤ (rowStart a s).uvp ∧ pixelStep k a s = raiseBounds .v (rowStart a s)) ∨
    (s.yp < a.len ∧ s.i % 2 = 0 ∧ a.len = (rowStart a s).uvp + 1 ∧
      pixelStep k a s = raiseBounds .u (rowStart a s)) ∨
    (s.yp < a.len ∧ s.i % 2 = 0 ∧ (rowStart a s).uvp + 1 < a.len ∧
      pixelStep k a s = completeIfDone a (pixelDone k a (Memory.read s.src s.yp).toNat
        (loadChroma (Memory.read s.src (rowStart a s).uvp).toNat (Memory.read s.src ((rowStart a s).uvp + 1)).toNat
          (rowStart a s)))) ∨
    (s.yp < a.len ∧ s.i % 2 = 1 ∧
      pixelStep k a s = completeIfDone a (pixelDone k a (Memory.read s.src s.yp).toNat (rowStart a s))) := by
  rcases Nat.lt_or_ge s.yp a.len with hy | hy
  · have hr : memRead a.len (rowStart a s) (rowStart a s).yp = some (Memory.read s.src s.yp).toNat :=
      memRead_eq_some.mpr ⟨hy, rfl⟩
    rcases fetchChroma_cases a (rowStart a s) with ⟨h, e⟩ | ⟨h, b, e⟩ | ⟨h, b, e⟩ | ⟨h, b, e⟩
    · exact .inr (.inr (.inr (.inr ⟨hy, h, by simp only [pixelStep, hr, e]; rfl⟩)))
    · exact .inr (.inl ⟨hy, h, b, by simp only [pixelStep, hr, e]⟩)
    · exact .inr (.inr (.inl ⟨hy, h, b, by simp only [pixelStep, hr, e]⟩))
    · exact .inr (.inr (.inr (.inl ⟨hy, h, b, by simp only [pixelStep, hr, e]; rfl⟩)))
  · have hr : memRead a.len (rowStart a s) (rowStart a s).yp = none := memRead_eq_none.mpr hy
    exact .inl ⟨hy, by simp only [pixelStep, hr]⟩

/-- What one step of a frame command can do. -/
theorem frameCommand_cases (k : FrameKind) (bv : Bool) (a : FrameArgs) (s : State) :
    (s.outKind = .none ∧ nullBuffer bv a = true ∧ frameCommand k bv a s = respondNothing s) ∨
    (s.outKind = .none ∧ nullBuffer bv a = false ∧ frameCommand k bv a s = completeIfDone a (startFrame k s)) ∨
    (s.outKind ≠ .none ∧ frameDone a s = true ∧ frameCommand k bv a s = completeFrame a s) ∨
    (s.outKind ≠ .none ∧ frameDone a s = false ∧ frameCommand k bv a s = pixelStep k a s) := by
  by_cases ho : s.outKind = .none
  · cases hn : nullBuffer bv a <;> simp [frameCommand, beginFrame, ho, hn]
  · cases hd : frameDone a s <;> simp [frameCommand, ho, hd]

/-- What one step of the machine can do. -/
theorem step_cases {s t : State} (h : step s = .next t) :
    (s.mode = .idle ∧ s.port = none ∧ t = s) ∨
    (∃ c, s.mode = .idle ∧ s.port = some c ∧ t = accept c s) ∨
    (∃ e, s.mode = .busy ∧ decode s.cw = .error e ∧ t = raiseIllegal s) ∨
    (∃ p, s.mode = .busy ∧ decode s.cw = .ok (.extractArgb p) ∧ t = respondOk (argbResult p) s) ∨
    (∃ r g b, s.mode = .busy ∧ decode s.cw = .ok (.rgbToHsl r g b) ∧ t = respondOk (hslResult r g b) s) ∨
    (∃ p, s.mode = .busy ∧ decode s.cw = .ok (.brightnessScore p) ∧ t = respondOk (brightnessResult p) s) ∨
    (∃ bv w hh len, s.mode = .busy ∧ decode s.cw = .ok (.decodeToRgb bv w hh len) ∧
      t = frameCommand .rgb bv (frameArgs w hh len) s) ∨
    (∃ bv w hh len, s.mode = .busy ∧ decode s.cw = .ok (.decodeToHsl bv w hh len) ∧
      t = frameCommand .hsl bv (frameArgs w hh len) s) := by
  cases hm : s.mode with
  | idle =>
    cases hp : s.port with
    | none => simp_all [step, idleStep]
    | some c => simp_all [step, idleStep]
  | busy =>
    cases hd : decode s.cw with
    | error e => simp_all [step]
    | ok i => cases i <;> simp_all [step, exec, execExtractArgb, execRgbToHsl, execBrightnessScore, execDecodeToRgb, execDecodeToHsl]

end Sys2Proof.Laws
end

