-- ==== Sys2Proof/Tests/Slice0.lean ====
section
/-! SUPPORT. Small tests with expected results from the spec's text and vectors, and for every statement with hypotheses
a witness that meets them. -/

namespace Sys2Proof.Tests

open Sys2Proof Sys2Proof.Machine

/-! ### Helpers -/

/-- A reset instance with the given SRC bytes and a command just accepted. -/
def accepted (i : Instr) (src : List Byte) : State := accept (encode i) { State.reset with src := Memory.ofBytes src }

/-- A reset instance with the given SRC bytes and a command on its port. -/
def presented (i : Instr) (src : List Byte) : State :=
  { State.reset with port := some (encode i), src := Memory.ofBytes src }

/-- A frame command just started. -/
def started (k : FrameKind) (w h len : Word) (src : List Byte) : State :=
  startFrame k (accepted (frameInstr k true w h len) src)

/-- The black 2x2 frame of 95_test_vectors.md S7. -/
def blackFrame : List Byte := [16, 16, 16, 16, 128, 128]

/-- The next state of an outcome. -/
def nextOf (o : Host.Outcome State Fault Refusal) : Option State :=
  match o with
  | .next t => some t
  | .fault _ => none
  | .refused _ => none

/-! ### WellFormed: an ill-formed term for each check (R53) -/

theorem test_ill_formed_red : (Instr.rgbToHsl 262144#32 0#32 0#32).wellFormed = false := by decide
theorem test_ill_formed_green : (Instr.rgbToHsl 0#32 262144#32 0#32).wellFormed = false := by decide
theorem test_ill_formed_blue : (Instr.rgbToHsl 0#32 0#32 0xFFFFFFFF#32).wellFormed = false := by decide
theorem test_well_formed_top : (Instr.rgbToHsl 262143#32 262143#32 262143#32).wellFormed = true := by decide

/-! ### Decode: a word of every constructor written out from R54, and the illegal kinds of R55 (95 section 2.8) -/

theorem test_decode_extractArgb :
    decode ⟨0x00000001#32, 0x12345678#32, 0#32, 0#32⟩ = .ok (.extractArgb 0x12345678#32) := by decide
theorem test_decode_rgbToHsl :
    decode ⟨0x00000002#32, 0x0003FFFF#32, 0x64#32, 0x32#32⟩ = .ok (.rgbToHsl 262143#32 100#32 50#32) := by decide
theorem test_decode_brightnessScore :
    decode ⟨0x00000003#32, 0x00FFF2F1#32, 0#32, 0#32⟩ = .ok (.brightnessScore 0x00FFF2F1#32) := by decide
theorem test_decode_decodeToRgb :
    decode ⟨0x00000104#32, 3#32, 2#32, 9#32⟩ = .ok (.decodeToRgb true 3#32 2#32 9#32) := by decide
theorem test_decode_decodeToRgb_absent_with_len :
    decode ⟨0x00000004#32, 2#32, 2#32, 0x4D#32⟩ = .ok (.decodeToRgb false 2#32 2#32 77#32) := by decide
theorem test_decode_decodeToHsl :
    decode ⟨0x00000105#32, 1#32, 1#32, 3#32⟩ = .ok (.decodeToHsl true 1#32 1#32 3#32) := by decide
theorem test_decode_zero : decode ⟨0#32, 0#32, 0#32, 0#32⟩ = .error .unassignedOpcode := by decide
theorem test_decode_six : decode ⟨6#32, 0#32, 0#32, 0#32⟩ = .error .unassignedOpcode := by decide
theorem test_decode_opcode_ff : decode ⟨0xFF#32, 0#32, 0#32, 0#32⟩ = .error .unassignedOpcode := by decide
theorem test_decode_bv_scalar : decode ⟨0x102#32, 0#32, 0#32, 0#32⟩ = .error .bufferValidOnScalar := by decide
theorem test_decode_second_operand : decode ⟨1#32, 5#32, 1#32, 0#32⟩ = .error .operandNotZero := by decide
theorem test_decode_third_operand : decode ⟨3#32, 5#32, 0#32, 5#32⟩ = .error .operandNotZero := by decide
theorem test_decode_wide_green : decode ⟨2#32, 0#32, 262144#32, 0#32⟩ = .error .channelTooWide := by decide
theorem test_decode_reserved_9 : decode ⟨0x204#32, 2#32, 2#32, 6#32⟩ = .error .reservedBits := by decide
theorem test_decode_reserved_31 : decode ⟨0x80000104#32, 2#32, 2#32, 6#32⟩ = .error .reservedBits := by decide
theorem test_decode_short_bytes : decodeBytes [1, 0, 0, 0] = .error .notFourWords := by decide

theorem test_table_word_scalar :
    decodeTableWord 128 0x00000000000000001234567800000001 = some (.extractArgb 0x12345678#32) := by decide
theorem test_table_word_short :
    decodeTableWord 32 0x00000004 = some (.decodeToRgb false 0#32 0#32 0#32) := by decide
theorem test_table_word_illegal : decodeTableWord 128 0 = none := by decide

/-! ### The assembler (R61; 95 sections 2.7 and 2.8) -/

theorem test_readLine_null :
    (readLine "DECODE_TO_RGB 1000, 1000, NULL".toList).map assemble = some ⟨4#32, 0x3E8#32, 0x3E8#32, 0#32⟩ := by decide
theorem test_readLine_comment :
    (readLine "  RGB_TO_HSL   200, 0x64 ,50 ; wraps".toList).map assemble = some ⟨2#32, 0xC8#32, 0x64#32, 0x32#32⟩ := by
  decide
theorem test_readLine_too_large : readLine "EXTRACT_ARGB 4294967296".toList = none := by decide

/-! ### Floats: the patterns of the traces of 95_test_vectors.md sections 2.2 and 2.3 -/

theorem test_normalise_200 : (normalise 200).toBits = 0x3F48C8C9#32 := by decide
theorem test_fdiv_by_zero : (fdiv (i2f 2) (fsub (i2f 2) (i2f 2))).toBits = 0x7F800000#32 := by decide
theorem test_f2i_negative : f2iInt (Flt.ofBits 0xC2C863CE#32) = -100 := by decide
theorem test_f2i_infinite : f2i (.inf false) = 0x7FFFFFFF#32 := by decide

/-! ### The scalar commands (95 sections 2.1, 2.2, 2.4) -/

theorem test_extractArgb :
    (nextOf (exec (.extractArgb 0x80FF7F01#32) (accepted (.extractArgb 0x80FF7F01#32) []))).map (fun t => (t.res, statusWord t))
      = some (⟨128#32, 255#32, 127#32, 1#32⟩, 0x00000102#32) := by decide
theorem test_rgbToHsl_wrap :
    (nextOf (exec (.rgbToHsl 255#32 255#32 0#32) (accepted (.rgbToHsl 255#32 255#32 0#32) []))).map
      (fun t => (t.res, statusWord t)) = some (⟨300#32, 100#32, 50#32, 0#32⟩, 0x00000202#32) := by decide
theorem test_rgbToHsl_binary32 :
    (nextOf (exec (.rgbToHsl 0#32 5#32 6#32) State.reset)).map (fun t => t.res) =
      some ⟨189#32, 100#32, 1#32, 0#32⟩ := by decide
theorem test_brightnessScore :
    (nextOf (exec (.brightnessScore 0x00FF0001#32) (accepted (.brightnessScore 0x00FF0001#32) []))).map
      (fun t => (t.res, statusWord t)) = some (⟨25#32, 0#32, 0#32, 0#32⟩, 0x00000302#32) := by decide

/-! ### The frame commands (95 sections 2.5, 2.7) -/

theorem test_decodeToRgb_pixel :
    (nextOf (exec (.decodeToRgb true 1#32 1#32 3#32) (started .rgb 1#32 1#32 3#32 [0x80, 0xC8, 0x3C]))).map
      (fun t => (t.out, t.res.r0, statusWord t)) = some ([.rgb 0xFFF56200#32], 1#32, 0x00000402#32) := by decide
theorem test_decodeToRgb_bounds_u :
    (nextOf (exec (.decodeToRgb true 2#32 2#32 5#32) (started .rgb 2#32 2#32 5#32 blackFrame))).map
      (fun t => (t.out, t.res, statusWord t)) = some ([], ⟨0#32, 2#32, 0#32, 0#32⟩, 0x0000042A#32) := by decide
theorem test_decodeToHsl_pixel :
    (nextOf (exec (.decodeToHsl true 1#32 1#32 3#32) (started .hsl 1#32 1#32 3#32 [0xF9, 0x77, 0xBB]))).map
      (fun t => (t.out, statusWord t)) = some ([.hsl 60#32 2147483647#32 102701#32], 0x00000502#32) := by decide
theorem test_decodeToHsl_nothing :
    (nextOf (exec (.decodeToHsl false 0#32 0#32 0#32) (accepted (.decodeToHsl false 0#32 0#32 0#32) []))).map
      (fun t => (t.res, statusWord t)) = some (Res.zero, 0x00000506#32) := by decide

/-! ### The step -/

theorem test_reset_status : statusWord State.reset = 0#32 := by decide
theorem test_busy_status : statusWord (accepted (.extractArgb 0#32) []) = 1#32 := by decide
theorem test_illegal_command :
    (nextOf (step (accept ⟨0x101#32, 0xFFC86432#32, 0#32, 0#32⟩ State.reset))).map (fun t => (t.res.r0, statusWord t)) =
      some (257#32, 0x0000011A#32) := by decide
theorem test_fetch_word_runs :
    (nextOf (step (State.reset.withFetchWord 128 0x00000000000000001234567800000001))).map (fun t => t.res) =
      some ⟨18#32, 52#32, 86#32, 120#32⟩ := by decide

/-! ### States that meet the invariant -/

/-- A frame between two pixel steps: a black 2x2 frame after its first pixel. -/
def oneDone : State :=
  { started .rgb 2#32 2#32 6#32 blackFrame with out := [.rgb 0xFF000000#32], i := 1, yp := 1, uvp := 6 }

theorem blackFrame_wf : Memory.wf (Memory.ofBytes blackFrame) = true := Laws.ofBytes_wf _

theorem witness_Inv_scalar : Inv (accepted (.rgbToHsl 1#32 2#32 3#32) []) where
  srcWf := rfl
  uRange := by decide
  vRange := by decide
  busyNoResp := by decide
  noResp := by decide
  fresh := by decide
  codeOfFault := by decide
  opcEcho := by decide
  outShape := by decide
  nothingResp := by decide
  illegalResp := by decide
  boundsResp := by decide
  okFrame := by decide
  flight := fun _ h => absurd rfl h

theorem witness_Inv_inFlight : Inv oneDone where
  srcWf := blackFrame_wf
  uRange := by decide
  vRange := by decide
  busyNoResp := by decide
  noResp := by decide
  fresh := by decide
  codeOfFault := by decide
  opcEcho := by decide
  outShape := by decide
  nothingResp := by decide
  illegalResp := by decide
  boundsResp := by decide
  okFrame := by decide
  flight := fun _ _ => ⟨.rgb, 2#32, 2#32, 6#32, by decide, by decide,
    { lenPos := by decide, col := by decide, row := by decide, pos := by decide, outIs := by decide,
      chromaPtr := by decide, heldV := by decide, heldU := by decide, passed := by decide }⟩

theorem witness_Inv_shortBuffer : Inv (started .rgb 2#32 2#32 5#32 blackFrame) where
  srcWf := blackFrame_wf
  uRange := by decide
  vRange := by decide
  busyNoResp := by decide
  noResp := by decide
  fresh := by decide
  codeOfFault := by decide
  opcEcho := by decide
  outShape := by decide
  nothingResp := by decide
  illegalResp := by decide
  boundsResp := by decide
  okFrame := by decide
  flight := fun _ _ => ⟨.rgb, 2#32, 2#32, 5#32, by decide, by decide,
    { lenPos := by decide, col := by decide, row := by decide, pos := by decide, outIs := by decide,
      chromaPtr := by decide, heldV := by decide, heldU := by decide, passed := by decide }⟩

/-! ### Witnesses: the hypotheses of each statement are met together -/

theorem witness_EncodeThenDecodeIsIdentity : (Instr.rgbToHsl 262143#32 0#32 5#32).wellFormed = true := by decide
theorem witness_DecodeThenEncodeIsIdentity :
    decode ⟨0x105#32, 7#32, 0#32, 1#32⟩ = .ok (.decodeToHsl true 7#32 0#32 1#32) := by decide
theorem witness_DecoderFollowsOpcodeMap :
    opcodeTable[3] ∈ opcodeTable ∧ Cmd.selects ⟨0x104#32, 7#32, 0#32, 1#32⟩ opcodeTable[3] = true := by decide
theorem witness_IllegalWordsFaultAndNoOthers :
    (accept ⟨0x204#32, 2#32, 2#32, 6#32⟩ State.reset).mode = .busy ∧
      decode (accept ⟨0x204#32, 2#32, 2#32, 6#32⟩ State.reset).cw = .error .reservedBits := by decide
theorem witness_AssembledLinesDecode : (AsmLine.decodeToRgb 2#32 2#32 none).instr.wellFormed = true := by decide
theorem witness_StepRunsDecodedCommand :
    (accepted (.extractArgb 9#32) []).mode = .busy ∧
      decode (accepted (.extractArgb 9#32) []).cw = .ok (.extractArgb 9#32) ∧
      (Instr.extractArgb 9#32).wellFormed = true := by decide
theorem witness_AcceptanceLatchesTheCommand :
    (presented (.extractArgb 9#32) []).mode = .idle ∧
      (presented (.extractArgb 9#32) []).port = some (encode (.extractArgb 9#32)) ∧
      State.reset.mode = .idle ∧ State.reset.port = none := by decide
theorem witness_EqualChannels : (262143#32 : Word).toNat ≤ 262143 := by decide
theorem witness_NormaliseIsStrictlyIncreasing : flt (normalise 262142) (normalise 262143) = true := by decide
theorem witness_NormaliseIsStrictlyIncreasing_low : flt (normalise 0) (normalise 1) = true := by decide
theorem witness_RangeIsZeroOnlyForEqualChannels :
    fsub (max3 (normalise 262143) (normalise 262142) (normalise 262143))
      (min3 (normalise 262143) (normalise 262142) (normalise 262143)) ≠ fzero false := by decide
theorem witness_Hue_red : ¬((255 : Nat) = 0 ∧ (0 : Nat) = 255) ∧ (0 : Nat) ≤ 255 ∧ (255 : Nat) ≤ 255 := by decide
theorem witness_Hue_green : ¬((0 : Nat) = 255 ∧ (255 : Nat) = 255) ∧ ¬((255 : Nat) ≤ 0) ∧ (255 : Nat) ≤ 255 := by decide
theorem witness_Hue_blue : ¬((0 : Nat) = 0 ∧ (0 : Nat) = 255) ∧ ¬((255 : Nat) ≤ 0) := by decide
theorem witness_RangeOfTwoSaturatesS :
    fsub (max3 (normalise (510#32 : Word).toNat) (normalise (0#32 : Word).toNat) (normalise (0#32 : Word).toNat))
      (min3 (normalise (510#32 : Word).toNat) (normalise (0#32 : Word).toNat) (normalise (0#32 : Word).toNat)) = i2f 2 ∧
      (510#32 : Word).toNat ≤ 262143 := by decide
theorem witness_HslDatapathNeverGivesNaN : (hslCore 510 0 0).sf = .inf false := by decide
theorem witness_HueIsBelow360 : (511 : Nat) ≤ 262143 ∧ (hslCore 262143 0 262142).hf.finite = true := by decide
theorem witness_ResultsStayInTheirRanges :
    (255#32 : Word).toNat ≤ 255 ∧ (262143#32 : Word).toNat ≤ 262143 ∧ ¬((262143#32 : Word).toNat ≤ 255) := by decide
theorem witness_GreyDecodesToGrey :
    (16#8 : Byte).toNat ≤ 16 ∧ (17#8 : Byte).toNat = 17 ∧ (235#8 : Byte).toNat = 235 ∧ 236 ≤ (236#8 : Byte).toNat := by decide
theorem witness_BrightnessScoreCompletes :
    (0xFFC86432#32 : Word).toNat % 2 ^ 24 = (0x00C86432#32 : Word).toNat % 2 ^ 24 := by decide
theorem witness_Presented_extractArgb : Presented (.extractArgb 9#32) (presented (.extractArgb 9#32) []) := ⟨rfl, rfl⟩
theorem witness_Presented_rgbToHsl :
    (Instr.rgbToHsl 1#32 2#32 262143#32).wellFormed = true ∧
      Presented (.rgbToHsl 1#32 2#32 262143#32) (presented (.rgbToHsl 1#32 2#32 262143#32) []) :=
  ⟨by decide, rfl, rfl⟩
theorem witness_Presented_brightnessScore :
    Presented (.brightnessScore 9#32) (presented (.brightnessScore 9#32) []) := ⟨rfl, rfl⟩
theorem witness_FloatOperations :
    (Flt.ofBits 0x00000001#32).finite = true ∧ (Flt.ofBits 0x7F7FFFFF#32).finite = true ∧
      (Flt.ofBits 0x80000000#32).finite = true := by decide
theorem witness_FloatOperations_divisor : (Flt.fin true 8388608 (-22)).finite = true ∧ (Flt.fin true 8388608 (-22)).val ≠ 0 :=
  ⟨by decide, by norm_num [Flt.val]⟩
theorem witness_IntegerToFloat : 2 ^ 24 - 1 < 2 ^ 24 := by decide
theorem witness_FloatToInteger_inside :
    (Flt.fin true 8388609 (-23)).finite = true ∧ (Flt.fin true 8388609 (-23)).val < 0 ∧
      -(2 ^ 31) < (Flt.fin true 8388609 (-23)).val := ⟨by decide, by norm_num [Flt.val], by norm_num [Flt.val]⟩
theorem witness_FloatToInteger_positive :
    (Flt.fin false 8388609 (-23)).finite = true ∧ 0 ≤ (Flt.fin false 8388609 (-23)).val ∧
      (Flt.fin false 8388609 (-23)).val < 2 ^ 31 := ⟨by decide, by norm_num [Flt.val], by norm_num [Flt.val]⟩
theorem witness_FloatToInteger_above :
    (Flt.fin false 8388608 8).finite = true ∧ 2 ^ 31 ≤ (Flt.fin false 8388608 8).val :=
  ⟨by decide, by norm_num [Flt.val]⟩
theorem witness_FloatToInteger_below :
    (Flt.fin true 8388608 8).finite = true ∧ (Flt.fin true 8388608 8).val ≤ -(2 ^ 31) :=
  ⟨by decide, by norm_num [Flt.val]⟩
theorem witness_FloatsAreBinary32Patterns : (Flt.fin false 1 (-149)).canonical = true ∧ Flt.ofBits 0#32 ≠ .nan := by decide
theorem witness_PackTakesTheTopBytes : (⟨262143, 0, 1024⟩ : Rgb18).r ≤ 262143 ∧ (⟨262143, 0, 1024⟩ : Rgb18).b ≤ 262143 := by
  decide
theorem witness_NullBuffer_absent :
    (accepted (.decodeToRgb false 2#32 2#32 6#32) []).outKind = .none ∧ ((false = false) ∨ (6#32 : Word) = 0#32) := by decide
theorem witness_NullBuffer_empty :
    (accepted (.decodeToRgb true 2#32 2#32 0#32) []).outKind = .none ∧ ((true = false) ∨ (0#32 : Word) = 0#32) := by decide
theorem witness_FrameStart_pixels :
    (accepted (.decodeToRgb true 1#32 1#32 1#32) []).outKind = .none ∧ (1#32 : Word) ≠ 0#32 ∧
      ¬((1#32 : Word) = 0#32 ∨ (1#32 : Word) = 0#32) := by decide
theorem witness_FrameStart_noPixel :
    (accepted (.decodeToHsl true 7#32 0#32 1#32) []).outKind = .none ∧ (1#32 : Word) ≠ 0#32 ∧
      ((7#32 : Word) = 0#32 ∨ (0#32 : Word) = 0#32) := by decide
theorem witness_PixelStep_even :
    (started .rgb 1#32 1#32 3#32 [1]).outKind ≠ .none ∧ (started .rgb 1#32 1#32 3#32 [1]).i % 2 = 0 ∧
      (started .rgb 1#32 1#32 3#32 [1]).j < (1#32 : Word).toNat ∧
      (started .rgb 1#32 1#32 3#32 [1]).yp < (3#32 : Word).toNat ∧ 1 * 1 + 0 / 2 * 1 + 1 < (3#32 : Word).toNat := by decide
theorem witness_PixelStep_odd :
    oneDone.outKind ≠ .none ∧ oneDone.i % 2 = 1 ∧ oneDone.i + 1 = (2#32 : Word).toNat ∧
      oneDone.j < (2#32 : Word).toNat ∧ oneDone.yp < (6#32 : Word).toNat := by decide
theorem witness_Bounds_y :
    ({ oneDone with yp := 6 } : State).outKind ≠ .none ∧ (6#32 : Word).toNat ≤ ({ oneDone with yp := 6 } : State).yp ∧
      ({ oneDone with yp := 6 } : State).j < (2#32 : Word).toNat := by decide
theorem witness_Bounds_v :
    (started .rgb 2#32 2#32 4#32 blackFrame).outKind ≠ .none ∧ (started .rgb 2#32 2#32 4#32 blackFrame).i = 0 ∧
      (started .rgb 2#32 2#32 4#32 blackFrame).yp < (4#32 : Word).toNat ∧ (4#32 : Word).toNat ≤ 2 * 2 + 0 / 2 * 2 := by decide
theorem witness_Bounds_u :
    (started .rgb 2#32 2#32 5#32 blackFrame).outKind ≠ .none ∧ (started .rgb 2#32 2#32 5#32 blackFrame).i = 0 ∧
      (started .rgb 2#32 2#32 5#32 blackFrame).yp < (5#32 : Word).toNat ∧ (5#32 : Word).toNat = 2 * 2 + 0 / 2 * 2 + 1 := by
  decide
theorem witness_LumaReadNeverFails :
    Inv (started .rgb 2#32 2#32 5#32 blackFrame) ∧ (started .rgb 2#32 2#32 5#32 blackFrame).mode = .busy ∧
      ∃ t, step (started .rgb 2#32 2#32 5#32 blackFrame) = .next t ∧ t.code = .bounds :=
  ⟨witness_Inv_shortBuffer, rfl, _, rfl, by decide⟩
theorem witness_ChromaPointer :
    Inv oneDone ∧ oneDone.mode = .busy ∧ oneDone.outKind ≠ .none ∧
      decode oneDone.cw = .ok (frameInstr .rgb true 2#32 2#32 6#32) :=
  ⟨witness_Inv_inFlight, rfl, by decide, by decide⟩
theorem witness_SufficientBuffer :
    Presented (frameInstr .hsl true 3#32 3#32 16#32) (presented (frameInstr .hsl true 3#32 3#32 16#32) [1, 2]) ∧
      (16#32 : Word) ≠ 0#32 ∧ need (3#32 : Word).toNat (3#32 : Word).toNat ≤ (16#32 : Word).toNat :=
  ⟨⟨rfl, rfl⟩, by decide, by decide⟩
theorem witness_ShortBuffer_u :
    Presented (frameInstr .rgb true 3#32 3#32 15#32) (presented (frameInstr .rgb true 3#32 3#32 15#32) [1, 2]) ∧
      (15#32 : Word) ≠ 0#32 ∧ (15#32 : Word).toNat < need (3#32 : Word).toNat (3#32 : Word).toNat ∧
      ¬((15#32 : Word).toNat ≤ vIndex 3 3 (8 / 3) (8 % 3)) := ⟨⟨rfl, rfl⟩, by decide, by decide, by decide⟩
theorem witness_ShortBuffer_v :
    Presented (frameInstr .rgb true 5#32 3#32 22#32) (presented (frameInstr .rgb true 5#32 3#32 22#32) [1, 2]) ∧
      (22#32 : Word) ≠ 0#32 ∧ (22#32 : Word).toNat < need (5#32 : Word).toNat (3#32 : Word).toNat ∧
      (22#32 : Word).toNat ≤ vIndex 5 3 (12 / 5) (12 % 5) := ⟨⟨rfl, rfl⟩, by decide, by decide, by decide⟩
theorem witness_Need : need 641 481 = 462803 ∧ need 640 480 = 460800 ∧ need 5 0 = 0 ∧ need 1 1 = 3 := by decide
theorem witness_BlockWithEqualLuma :
    Presented (frameInstr .rgb true 2#32 2#32 6#32) (presented (frameInstr .rgb true 2#32 2#32 6#32) blackFrame) ∧
      need (2#32 : Word).toNat (2#32 : Word).toNat ≤ (6#32 : Word).toNat ∧
      (∃ t, Host.Core.run core ((2#32 : Word).toNat * (2#32 : Word).toNat + 2)
        (presented (frameInstr .rgb true 2#32 2#32 6#32) blackFrame) = .next t) ∧
      byteAt (presented (frameInstr .rgb true 2#32 2#32 6#32) blackFrame).src 3 =
        byteAt (presented (frameInstr .rgb true 2#32 2#32 6#32) blackFrame).src 0 :=
  ⟨⟨rfl, rfl⟩, by decide, ⟨_, rfl⟩, by decide⟩
theorem witness_StepKeepsTheInvariant : Inv oneDone ∧ ∃ t, step oneDone = .next t := ⟨witness_Inv_inFlight, _, rfl⟩
theorem witness_HostMovesKeepTheInvariant :
    Inv (accepted (.rgbToHsl 1#32 2#32 3#32) []) ∧
      (∃ t, hostMove (.writeSrc 4 7#8) (accepted (.rgbToHsl 1#32 2#32 3#32) []) = some t) ∧
      ∃ t, hostMove .reset (accepted (.rgbToHsl 1#32 2#32 3#32) []) = some t :=
  ⟨witness_Inv_scalar, ⟨_, rfl⟩, _, rfl⟩
theorem witness_EveryCommandCompletes : Inv oneDone ∧ oneDone.mode = .busy := ⟨witness_Inv_inFlight, rfl⟩
theorem witness_StatusWordLayout : Inv oneDone ∧ oneDone.mode = .busy ∧ statusWord oneDone = 1#32 :=
  ⟨witness_Inv_inFlight, rfl, by decide⟩
theorem witness_StepWritesOnlyWhatItMay :
    oneDone.mode = .busy ∧ oneDone.outKind ≠ .none ∧ ∃ t, step oneDone = .next t ∧ t.out.length = 2 :=
  ⟨rfl, by decide, _, rfl, by decide⟩
theorem witness_PositionMovesOnePixelAtATime : ∃ t, step oneDone = .next t ∧ t.i = 0 ∧ t.j = 1 ∧ t.yp = 2 :=
  ⟨_, rfl, by decide⟩
theorem witness_CommandsAreIndependent :
    (presented (.extractArgb 9#32) []).mode = .idle ∧
      ({ presented (.extractArgb 9#32) [] with yp := 77, u := 3, respValid := true } : State).port =
        some (encode (.extractArgb 9#32)) ∧
      ({ presented (.extractArgb 9#32) [] with yp := 77, u := 3, respValid := true } : State).src =
        (presented (.extractArgb 9#32) []).src := by decide
theorem witness_HostDuties_present : oneDone.mode = .busy ∧ State.reset.mode = .idle ∧ State.reset.port = none := by decide
theorem witness_HostDuties_frozen :
    (presented (frameInstr .hsl true 1#32 1#32 3#32) []).port = some (encode (frameInstr .hsl true 1#32 1#32 3#32)) ∧
      oneDone.mode = .busy ∧ oneDone.cw = encode (frameInstr .rgb true 2#32 2#32 6#32) := by decide
theorem witness_HostWriteChangesOneByte :
    Memory.wf (accepted (.extractArgb 9#32) blackFrame).src = true ∧
      srcFrozen (accepted (.extractArgb 9#32) blackFrame) = false := by decide
theorem witness_Instances : [State.reset, oneDone][1]? = some oneDone := by decide
theorem witness_FloatComparisons_special : (fzero true).finite = true ∧ flt (fzero true) (.inf false) = true := by decide
theorem witness_FloatSpecialValues_positive :
    (Flt.fin false 8388608 (-23)).finite = true ∧ 0 < (Flt.fin false 8388608 (-23)).val := ⟨by decide, by norm_num [Flt.val]⟩
theorem witness_FloatSpecialValues_zero : (fzero true).finite = true ∧ (fzero true).val = 0 ∧
    (fzero true).val + (fzero false).val = 0 ∧ (fzero true).val - (fzero false).val = 0 ∧
    (fzero true).val * (fzero false).val = 0 := ⟨by decide, by simp [fzero, Flt.val], by simp [fzero, Flt.val],
      by simp [fzero, Flt.val], by simp [fzero, Flt.val]⟩
theorem witness_EveryPixelOrder_complete :
    Presented (frameInstr .rgb true 2#32 2#32 6#32) (presented (frameInstr .rgb true 2#32 2#32 6#32) blackFrame) ∧
      (6#32 : Word) ≠ 0#32 ∧ allowedOrder Config.internalParallelism ((2#32 : Word).toNat * (2#32 : Word).toNat) [3, 1, 0, 2] ∧
      (answerInOrder .rgb (Memory.ofBytes blackFrame) (frameArgs 2#32 2#32 6#32) [3, 1, 0, 2]).kind = .ok :=
  ⟨⟨rfl, rfl⟩, by decide, by unfold allowedOrder; decide, by decide⟩
theorem witness_EveryPixelOrder_short :
    Presented (frameInstr .rgb true 1#32 3#32 5#32) (presented (frameInstr .rgb true 1#32 3#32 5#32) blackFrame) ∧
      (5#32 : Word) ≠ 0#32 ∧ allowedOrder Config.internalParallelism ((1#32 : Word).toNat * (3#32 : Word).toNat) [2, 1, 0] ∧
      (answerInOrder .rgb (Memory.ofBytes blackFrame) (frameArgs 1#32 3#32 5#32) [2, 1, 0]).res = ⟨2#32, 2#32, 0#32, 0#32⟩ :=
  ⟨⟨rfl, rfl⟩, by decide, by unfold allowedOrder; decide, by decide⟩
theorem witness_PositionMoves_wrap : decode oneDone.cw = .ok (frameInstr .rgb true 2#32 2#32 6#32) ∧
    oneDone.i + 1 = (2#32 : Word).toNat ∧ oneDone.outKind ≠ .none := by decide
theorem witness_PositionMoves_start :
    (accepted (frameInstr .rgb true 2#32 2#32 6#32) []).outKind = .none ∧
      ∃ t, step (accepted (frameInstr .rgb true 2#32 2#32 6#32) []) = .next t ∧ t.outKind = .rgb :=
  ⟨by decide, _, rfl, by decide⟩

end Sys2Proof.Tests
end

namespace Sys2Proof.Machine

/-- The state with another pixel position. -/
def State.withPosition (s : State) (j i yp : Nat) : State := { s with j := j, i := i, yp := yp }

/-- The state with another chroma pointer and held chroma pair. -/
def State.withChroma (s : State) (uvp : Nat) (u v : Int) : State := { s with uvp := uvp, u := u, v := v }

end Sys2Proof.Machine

namespace Sys2Proof.Proofs

open Sys2Proof Sys2Proof.Machine Sys2Proof.Laws

/-! ### A step by the command in the latch -/

/-- The latch alone decides what a BUSY step is: one completion, the same in every state, or a step of one frame
command. -/
theorem step_of_latch (c : Cmd) :
    (∃ k code r, ∀ s : State, s.mode = .busy → s.cw = c → step s = .next (respond k code r s)) ∨
    (∃ k bv a, ∀ s : State, s.mode = .busy → s.cw = c → step s = .next (frameCommand k bv a s)) := by
  cases hd : decode c with
  | error e => exact .inl ⟨.fault, .illegalCmd, ⟨c.w0, 0#32, 0#32, 0#32⟩, fun s hm hc => by simp [step, hm, hc, hd]⟩
  | ok i =>
    cases i with
    | extractArgb p =>
      exact .inl ⟨.ok, .noFault, argbResult p, fun s hm hc => by simp [step, hm, hc, hd, exec, execExtractArgb]⟩
    | rgbToHsl r g b =>
      exact .inl ⟨.ok, .noFault, hslResult r g b, fun s hm hc => by simp [step, hm, hc, hd, exec, execRgbToHsl]⟩
    | brightnessScore p =>
      exact .inl ⟨.ok, .noFault, brightnessResult p,
        fun s hm hc => by simp [step, hm, hc, hd, exec, execBrightnessScore]⟩
    | decodeToRgb bv w h len =>
      exact .inr ⟨.rgb, bv, frameArgs w h len, fun s hm hc => by simp [step, hm, hc, hd, exec, execDecodeToRgb]⟩
    | decodeToHsl bv w h len =>
      exact .inr ⟨.hsl, bv, frameArgs w h len, fun s hm hc => by simp [step, hm, hc, hd, exec, execDecodeToHsl]⟩

/-- An IDLE step is `idleStep`. -/
theorem step_of_idle {s : State} (hm : s.mode = .idle) : step s = .next (idleStep s) := by
  simp [step, hm]

/-- An IDLE machine accepts the command on its port (30_encoding.md R51). -/
theorem step_of_presented {s : State} {c : Cmd} (hm : s.mode = .idle) (hp : s.port = some c) :
    step s = .next (accept c s) := by
  simp [step_of_idle hm, idleStep, hp]

/-- A run of one step more, after a step that does not stop. -/
theorem run_succ {s s' : State} (n : Nat) (h : step s = .next s') :
    Host.Core.run core (n + 1) s = Host.Core.run core n s' := by
  have hcore : core.step s = .next s' := h
  simp only [Host.Core.run, hcore]

/-! ### The registers a command writes before it reads them -/

section registers
variable (s : State) (a : FrameArgs) (uvp : Nat) (u v : Int)

@[simp] theorem withChroma_yp : (s.withChroma uvp u v).yp = s.yp := rfl
@[simp] theorem withChroma_outKind : (s.withChroma uvp u v).outKind = s.outKind := rfl
@[simp] theorem withPosition_outKind (j i yp : Nat) : (s.withPosition j i yp).outKind = s.outKind := rfl
@[simp] theorem memRead_withChroma (len idx : Nat) : memRead len (s.withChroma uvp u v) idx = memRead len s idx := rfl
@[simp] theorem frameDone_withChroma : frameDone a (s.withChroma uvp u v) = frameDone a s := rfl

/-- At column 0 the row start overwrites the chroma pointer (41_frame_decoder.md R104). -/
theorem rowStart_withChroma (hi : s.i = 0) :
    rowStart a (s.withChroma uvp u v) = (rowStart a s).withChroma (rowStart a s).uvp u v := by
  simp [rowStart, State.withChroma, chromaPointer, hi]

/-- At an even column the chroma fetch does not read the held pair (41_frame_decoder.md R105). -/
theorem fetchChroma_withChroma (hi : s.i % 2 = 0) :
    fetchChroma a (s.withChroma s.uvp u v) = fetchChroma a s := by
  simp only [fetchChroma, State.withChroma, Nat.and_one_is_mod, hi, if_true]
  rfl

end registers

/-- Two states that took the same command over the same SRC: what may still differ is only what the
command writes before it reads it, or what it no longer reads. -/
inductive Alike : State → State → Prop
  /-- Equal states: from the first pixel of a frame on, the command has written every register it reads. -/
  | same (s : State) : Alike s s
  /-- A started frame at column 0, before its first pixel: the chroma pointer and the held pair are not yet written. -/
  | started (s : State) (uvp : Nat) (u v : Int) (hout : s.outKind ≠ .none) (hi : s.i = 0) :
      Alike s (s.withChroma uvp u v)
  /-- No frame is in flight, and no register of the position or of the chroma pair is in use. -/
  | noFrame (s : State) (j i yp uvp : Nat) (u v : Int) (h : s.mode = .idle ∨ s.outKind = .none) :
      Alike s ((s.withPosition j i yp).withChroma uvp u v)

/-- Acceptance makes two states with the same SRC alike. -/
theorem Alike.accept (c : Cmd) {s t : State} (hsrc : s.src = t.src) : Alike (accept c s) (accept c t) := by
  have ht : Machine.accept c t = ((Machine.accept c s).withPosition t.j t.i t.yp).withChroma t.uvp t.u t.v := by
    simp [Machine.accept, State.withPosition, State.withChroma, hsrc]
  rw [ht]
  exact .noFrame _ _ _ _ _ _ _ (.inr rfl)

/-- The same completion keeps two states alike. -/
theorem Alike.respond (k : RespKind) (code : FaultCode) (r : Res) {s t : State} (h : Alike s t) :
    Alike (respond k code r s) (respond k code r t) := by
  cases h with
  | same => exact .same _
  | started uvp u v => exact .noFrame _ s.j s.i s.yp uvp u v (.inl rfl)
  | noFrame j i yp uvp u v => exact .noFrame _ j i yp uvp u v (.inl rfl)

/-- The completion test keeps two states alike that are in the same row. -/
theorem Alike.completeIfDone (a : FrameArgs) {s t : State} (h : Alike s t) (hj : s.j = t.j) :
    Alike (completeIfDone a s) (completeIfDone a t) := by
  unfold Machine.completeIfDone frameDone
  rw [hj]
  split
  · exact h.respond _ _ _
  · exact h

/-- The first step of a frame command reads neither the position nor the chroma pair. -/
theorem alike_beginFrame (k : FrameKind) (bv : Bool) (a : FrameArgs) (s : State) (j i yp uvp : Nat) (u v : Int)
    (hout : s.outKind = .none) :
    Alike (beginFrame k bv a s) (beginFrame k bv a ((s.withPosition j i yp).withChroma uvp u v)) := by
  unfold beginFrame
  split
  · exact (Alike.noFrame s j i yp uvp u v (.inr hout)).respond _ _ _
  · have hkind : (startFrame k s).outKind ≠ .none := by cases k <;> simp [outKindOf]
    exact (Alike.started (startFrame k s) uvp u v hkind rfl).completeIfDone a rfl

/-- The first pixel step of a frame writes the chroma pointer and the held pair before it reads them, or ends the
command with BOUNDS. -/
theorem alike_firstPixelStep (k : FrameKind) (a : FrameArgs) (s : State) (uvp : Nat) (u v : Int)
    (hout : s.outKind ≠ .none) (hi : s.i = 0) :
    Alike (pixelStep k a s) (pixelStep k a (s.withChroma uvp u v)) := by
  have hrow : Alike (rowStart a s) ((rowStart a s).withChroma (rowStart a s).uvp u v) := .started _ _ _ _ hout hi
  have hfetch := fetchChroma_withChroma (rowStart a s) a u v (by simp [hi])
  simp only [pixelStep, rowStart_withChroma s a uvp u v hi, hfetch, memRead_withChroma, withChroma_yp]
  split
  · exact hrow.respond _ _ _
  · split
    · exact hrow.respond _ _ _
    · exact .same _

/-- One step of a frame command in flight keeps two states alike. -/
theorem Alike.frameCommand (k : FrameKind) (bv : Bool) (a : FrameArgs) {s t : State} (h : Alike s t)
    (hm : s.mode = .busy) : Alike (frameCommand k bv a s) (frameCommand k bv a t) := by
  cases h with
  | same => exact .same _
  | started uvp u v hout hi =>
    simp only [Machine.frameCommand, withChroma_outKind, hout, if_false]
    rw [frameDone_withChroma]
    split
    · exact (Alike.started s uvp u v hout hi).respond _ _ _
    · exact alike_firstPixelStep k a s uvp u v hout hi
  | noFrame j i yp uvp u v h =>
    have hout : s.outKind = .none := h.resolve_left (by simp [hm])
    simp only [Machine.frameCommand, withChroma_outKind, withPosition_outKind, hout, if_true]
    exact alike_beginFrame k bv a s j i yp uvp u v hout

/-- Two alike states agree in MODE, the port, the latch and SRC. -/
theorem Alike.inputs {s t : State} (h : Alike s t) : t.mode = s.mode ∧ KeepsInputs s t := by
  cases h <;> exact ⟨rfl, rfl, rfl, rfl, fun _ => rfl⟩

/-- Two alike states look alike to the host. -/
theorem Alike.sameView {s t : State} (h : Alike s t) : SameView s t := by
  cases h <;> exact ⟨rfl, rfl, rfl⟩

/-- An IDLE step keeps two states alike. -/
theorem Alike.idleStep {s t : State} (h : Alike s t) : Alike (idleStep s) (idleStep t) := by
  obtain ⟨-, hin⟩ := h.inputs
  unfold Machine.idleStep
  rw [hin.port]
  split
  · exact h
  · exact .accept _ hin.src.symm

/-- A step keeps two states alike. -/
theorem Alike.step {s t : State} (h : Alike s t) :
    ∃ s' t', step s = .next s' ∧ step t = .next t' ∧ Alike s' t' := by
  obtain ⟨hmode, hin⟩ := h.inputs
  cases hm : s.mode with
  | idle => exact ⟨_, _, step_of_idle hm, step_of_idle (hmode.trans hm), h.idleStep⟩
  | busy =>
    obtain ⟨k, code, r, hstep⟩ | ⟨k, bv, a, hstep⟩ := step_of_latch s.cw
    · exact ⟨_, _, hstep s hm rfl, hstep t (hmode.trans hm) hin.cw, h.respond k code r⟩
    · exact ⟨_, _, hstep s hm rfl, hstep t (hmode.trans hm) hin.cw, h.frameCommand k bv a hm⟩

/-- A run keeps two states alike. -/
theorem Alike.run (n : Nat) {s t : State} (h : Alike s t) :
    ∃ s' t', Host.Core.run core n s = .next s' ∧ Host.Core.run core n t = .next t' ∧ Alike s' t' := by
  induction n generalizing s t with
  | zero => exact ⟨s, t, rfl, rfl, h⟩
  | succ n ih =>
    obtain ⟨s₁, t₁, hs, ht, h₁⟩ := h.step
    rw [run_succ n hs, run_succ n ht]
    exact ih h₁

/-- Settles O52: acceptance makes the two states alike, every step keeps them so, and alike states look alike. -/
theorem commandsAreIndependentOfEarlierState : Obligations.CommandsAreIndependentOfEarlierState := by
  intro s t c hs ht hps hpt hsrc n
  obtain ⟨s', t', hs', ht', h⟩ := (Alike.accept c hsrc).run n
  exact ⟨s', t', (run_succ n (step_of_presented hs hps)).trans hs', (run_succ n (step_of_presented ht hpt)).trans ht',
    h.inputs.1.symm, h.sameView⟩

end Sys2Proof.Proofs

namespace Sys2Proof.Proofs

open Sys2Proof Sys2Proof.Machine Sys2Proof.Laws

/-! ### The fields of STATUS (10_state.md R14) -/

/-- Each field of STATUS by its place value. -/
theorem statusWord_fields (s : State) :
    (statusWord s).toNat % 2 = (busyBit s.mode).toNat ∧
    (statusWord s).toNat / 2 % 2 = s.respValid.toNat ∧
    (statusWord s).toNat / 4 % 4 = (kindBits s.kind).toNat ∧
    (statusWord s).toNat / 16 % 16 = (codeBits s.code).toNat ∧
    (statusWord s).toNat / 256 = s.opc.toNat := by
  have hb := Bool.toNat_lt (busyBit s.mode)
  have hv := Bool.toNat_lt s.respValid
  have hk : (kindBits s.kind).toNat < 4 := (kindBits s.kind).isLt
  have hc : (codeBits s.code).toNat < 16 := (codeBits s.code).isLt
  rw [statusWord_toNat]
  omega

/-- While a command is in flight, STATUS shows BUSY and nothing else. -/
theorem statusWord_of_busy {s : State} (h : Inv s) (hm : s.mode = .busy) : statusWord s = 1#32 := by
  have hv := h.busyNoResp hm
  obtain ⟨hk, hc, ho, -⟩ := h.noResp hv
  apply BitVec.eq_of_toNat_eq
  simp [statusWord_toNat, hm, hv, hk, hc, ho, busyBit, codeBits, kindBits]

/-- Settles O49: STATUS is a sum of its fields by place value, and the invariant keeps RESP_VALID 0 in BUSY. -/
theorem statusWordLayout : Obligations.StatusWordLayout := by
  refine ⟨fun s => ?_, fun s h => ⟨?_, statusWord_of_busy h⟩⟩
  · obtain ⟨hb, hv, hk, hc, ho⟩ := statusWord_fields s
    refine ⟨hb.trans ?_, hv.trans ?_, hk.trans ?_, hc.trans ?_, ho⟩
    · cases s.mode <;> rfl
    · cases s.respValid <;> rfl
    · cases s.kind <;> rfl
    · cases s.code <;> rfl
  · cases hm : s.mode with
    | idle =>
      have hb := (statusWord_fields s).1
      simp only [hm, busyBit, Bool.toNat_false] at hb
      omega
    | busy => simp [statusWord_of_busy h hm]

/-! ### A command read back from its words (30_encoding.md R50 to R54) -/

section encodeWord0
variable (opc : Byte) (bv : Bool) (w1 w2 w3 : Word)

@[simp] theorem opc_encodeWord0 : (⟨encodeWord0 opc bv, w1, w2, w3⟩ : Cmd).opc = opc := by
  have hlt : opc.toNat < 256 := opc.isLt
  apply BitVec.eq_of_toNat_eq
  rw [opc_toNat, encodeWord0_toNat]
  split <;> omega

@[simp] theorem bv_encodeWord0 : (⟨encodeWord0 opc bv, w1, w2, w3⟩ : Cmd).bv = bv := by
  have hlt : opc.toNat < 256 := opc.isLt
  rw [Bool.eq_iff_iff, bv_eq_true, encodeWord0_toNat]
  cases bv <;> simp <;> omega

@[simp] theorem reserved_encodeWord0 : (⟨encodeWord0 opc bv, w1, w2, w3⟩ : Cmd).reserved = 0#23 := by
  have hlt : opc.toNat < 256 := opc.isLt
  apply BitVec.eq_of_toNat_eq
  rw [reserved_toNat, encodeWord0_toNat]
  cases bv <;> simp <;> omega

end encodeWord0

/-- The decoder reads back the words of every well-formed command. -/
theorem decode_encode {i : Instr} (h : i.wellFormed = true) : decode (encode i) = .ok i := by
  cases i with
  | extractArgb p => simp [decode, encode, decodeOneOperand]
  | rgbToHsl r g b => simpa [decode, encode, decodeThreeChannels, Instr.wellFormed, and_assoc] using h
  | brightnessScore p => simp [decode, encode, decodeOneOperand]
  | decodeToRgb bv w hh len => simp [decode, encode]
  | decodeToHsl bv w hh len => simp [decode, encode]

/-- A command is the one its 128 bits give. -/
theorem ofTableWord_bits (c : Cmd) : Cmd.ofTableWord 128 c.bits.toNat = c := by
  obtain ⟨w0, w1, w2, w3⟩ := c
  have h0 := w0.isLt
  have h1 := w1.isLt
  have h2 := w2.isLt
  have h3 := w3.isLt
  rw [bits_toNat]
  simp only [Cmd.ofTableWord, Cmd.mk.injEq]
  refine ⟨?_, ?_, ?_, ?_⟩ <;> (apply BitVec.eq_of_toNat_eq; rw [BitVec.toNat_ofNat]; omega)

/-- A BUSY step is the meaning of the command in the latch. -/
theorem step_of_decode {s : State} {i : Instr} (hm : s.mode = .busy) (hd : decode s.cw = .ok i) :
    step s = exec i s := by
  simp [step, hm, hd]

/-- Settles O10: a BUSY step reads the latch, and a placed word is the encoding it was made from. -/
theorem stepRunsDecodedCommand : Obligations.StepRunsDecodedCommand := by
  refine ⟨fun s i hm hd => step_of_decode hm hd, fun s i hi => ?_⟩
  have hcw : (s.withFetchWord 128 (encode i).bits.toNat).cw = encode i := by
    rw [withFetchWord_cw, ofTableWord_bits]
  exact ⟨hcw, step_of_decode rfl (by rw [hcw]; exact decode_encode hi)⟩

/-! ### What a step changes -/

/-- A frame command has one kind and one set of operands. -/
theorem frameInstr_inj {k k' : FrameKind} {bv bv' : Bool} {w w' hh hh' len len' : Word}
    (h : frameInstr k bv w hh len = frameInstr k' bv' w' hh' len') :
    k = k' ∧ bv = bv' ∧ w = w' ∧ hh = hh' ∧ len = len' := by
  cases k <;> cases k' <;> cases h <;> exact ⟨rfl, rfl, rfl, rfl, rfl⟩

/-- What one step can do, the two frame commands under one name. -/
theorem step_cases_frame {s t : State} (h : step s = .next t) :
    (s.mode = .idle ∧ t = idleStep s) ∨
    (s.mode = .busy ∧ (∀ k bv w hh len, decode s.cw ≠ .ok (frameInstr k bv w hh len)) ∧
      ((∃ r, t = respondOk r s) ∨ t = raiseIllegal s)) ∨
    (s.mode = .busy ∧ ∃ k bv w hh len, decode s.cw = .ok (frameInstr k bv w hh len) ∧
      t = frameCommand k bv (frameArgs w hh len) s) := by
  have other {x} (hx : decode s.cw = x) (hne : ∀ k bv w hh len, x ≠ .ok (frameInstr k bv w hh len)) k bv w hh len :
      decode s.cw ≠ .ok (frameInstr k bv w hh len) := hx ▸ hne k bv w hh len
  obtain ⟨hm, hp, rfl⟩ | ⟨c, hm, hp, rfl⟩ | ⟨e, hm, hd, rfl⟩ | ⟨p, hm, hd, rfl⟩ | ⟨r, g, b, hm, hd, rfl⟩ |
    ⟨p, hm, hd, rfl⟩ | ⟨bv, w, hh, len, hm, hd, rfl⟩ | ⟨bv, w, hh, len, hm, hd, rfl⟩ := step_cases h
  · exact .inl ⟨hm, by simp [idleStep, hp]⟩
  · exact .inl ⟨hm, by simp [idleStep, hp]⟩
  · exact .inr (.inl ⟨hm, other hd nofun, .inr rfl⟩)
  · exact .inr (.inl ⟨hm, other hd (by rintro (_ | _) <;> simp [frameInstr]), .inl ⟨_, rfl⟩⟩)
  · exact .inr (.inl ⟨hm, other hd (by rintro (_ | _) <;> simp [frameInstr]), .inl ⟨_, rfl⟩⟩)
  · exact .inr (.inl ⟨hm, other hd (by rintro (_ | _) <;> simp [frameInstr]), .inl ⟨_, rfl⟩⟩)
  · exact .inr (.inr ⟨hm, .rgb, bv, w, hh, len, hd, rfl⟩)
  · exact .inr (.inr ⟨hm, .hsl, bv, w, hh, len, hd, rfl⟩)

/-- The frame goes on exactly when it has a column and a row left. -/
theorem frameDone_eq_false {a : FrameArgs} {s : State} : frameDone a s = false ↔ a.width ≠ 0 ∧ s.j < a.height := by
  rw [← Bool.not_eq_true, frameDone_iff, not_or, Nat.not_le]

/-- The null check passes exactly on a present buffer of at least one byte. -/
theorem nullBuffer_eq_false {bv : Bool} {a : FrameArgs} : nullBuffer bv a = false ↔ bv = true ∧ a.len ≠ 0 := by
  rw [← Bool.not_eq_true, nullBuffer_iff, not_or, Bool.not_eq_false]

/-- The completion test changes only the response. -/
theorem completeIfDone_keeps (a : FrameArgs) (s : State) :
    KeepsInputs s (completeIfDone a s) ∧ KeepsPosition s (completeIfDone a s) ∧ KeepsOut s (completeIfDone a s) := by
  unfold completeIfDone
  split <;> exact ⟨⟨rfl, rfl, rfl, fun _ => rfl⟩, ⟨rfl, rfl, rfl⟩, ⟨rfl, rfl⟩⟩

/-- `t` has one element more than `s` and stands at the next pixel in row-major order (10_state.md R15). -/
structure AppendsPixel (width : Nat) (s t : State) : Prop where
  out : ∃ e, t.out = s.out ++ [e]
  yp : t.yp = s.yp + 1
  i : t.i = nextCol width s.i
  j : t.j = nextRow width s.i s.j

/-- `t` is `s` after a pixel step: one more element and the next pixel, or the same OUT and position. -/
structure PixelEffect (width : Nat) (s t : State) : Prop where
  inputs : KeepsInputs s t
  outKind : t.outKind = s.outKind
  move : (KeepsPosition s t ∧ t.out = s.out) ∨ AppendsPixel width s t

/-- A pixel step appends one element and moves by one pixel, or it faults in place. -/
theorem pixelStep_effect (k : FrameKind) (a : FrameArgs) (s : State) : PixelEffect a.width s (pixelStep k a s) := by
  have faulted which : PixelEffect a.width s (raiseBounds which (rowStart a s)) :=
    ⟨⟨rfl, rfl, rfl, fun _ => rfl⟩, rfl, .inl ⟨⟨rfl, rfl, rfl⟩, rfl⟩⟩
  obtain ⟨-, e⟩ | ⟨-, -, -, e⟩ | ⟨-, -, -, e⟩ | ⟨-, -, -, e⟩ | ⟨-, -, e⟩ := pixelStep_cases k a s
  · exact e ▸ faulted _
  · exact e ▸ faulted _
  · exact e ▸ faulted _
  all_goals
    rw [e]
    obtain ⟨hin, hpos, hout⟩ := completeIfDone_keeps a (pixelDone k a _ _)
    exact ⟨⟨hin.port, hin.cw, hin.src, hin.bytes⟩, hout.outKind, .inr ⟨⟨_, hout.out⟩, hpos.yp, hpos.i, hpos.j⟩⟩

/-- What one step of a frame command may change. -/
theorem frameCommand_effect (k : FrameKind) (bv : Bool) (a : FrameArgs) (s : State) :
    KeepsInputs s (frameCommand k bv a s) ∧
      ((s.outKind = .none ∧ KeepsPosition s (frameCommand k bv a s)) ∨
       (s.outKind = .none ∧ (frameCommand k bv a s).outKind = outKindOf k ∧
         KeepsPosition (startFrame k s) (frameCommand k bv a s)) ∨
       (s.outKind ≠ .none ∧ (frameCommand k bv a s).outKind = s.outKind ∧
         ((KeepsPosition s (frameCommand k bv a s) ∧ (frameCommand k bv a s).out = s.out) ∨
          (s.j < a.height ∧ AppendsPixel a.width s (frameCommand k bv a s))))) := by
  obtain ⟨ho, -, e⟩ | ⟨ho, -, e⟩ | ⟨ho, -, e⟩ | ⟨ho, hd, e⟩ := frameCommand_cases k bv a s <;> rw [e]
  · exact ⟨⟨rfl, rfl, rfl, fun _ => rfl⟩, .inl ⟨ho, rfl, rfl, rfl⟩⟩
  · obtain ⟨hin, hpos, hout⟩ := completeIfDone_keeps a (startFrame k s)
    exact ⟨⟨hin.port, hin.cw, hin.src, hin.bytes⟩, .inr (.inl ⟨ho, hout.outKind, hpos⟩)⟩
  · exact ⟨⟨rfl, rfl, rfl, fun _ => rfl⟩, .inr (.inr ⟨ho, rfl, .inl ⟨⟨rfl, rfl, rfl⟩, rfl⟩⟩)⟩
  · obtain ⟨-, hj⟩ := frameDone_eq_false.mp hd
    obtain ⟨hin, hkind, hmove⟩ := pixelStep_effect k a s
    exact ⟨hin, .inr (.inr ⟨ho, hkind, hmove.imp_right fun hp => ⟨hj, hp⟩⟩)⟩

/-- Settles O50: acceptance alone writes the latch, no step writes SRC, and a pixel step appends at most one element. -/
theorem stepWritesOnlyWhatItMay : Obligations.StepWritesOnlyWhatItMay := by
  intro s t h
  obtain ⟨hm, rfl⟩ | ⟨-, -, ⟨r, rfl⟩ | rfl⟩ | ⟨-, k, bv, w, hh, len, -, rfl⟩ := step_cases_frame h
  · have hne : s.mode ≠ .busy := by simp [hm]
    unfold idleStep
    split
    · exact ⟨rfl, fun _ => rfl, .inl rfl, fun _ => rfl, fun hb => absurd hb hne⟩
    · next c hp => exact ⟨rfl, fun _ => rfl, .inr ⟨hm, hp⟩, fun hb => absurd hb hne, fun hb => absurd hb hne⟩
  · exact ⟨rfl, fun _ => rfl, .inl rfl, fun _ => rfl, fun _ _ => ⟨rfl, [], by simp⟩⟩
  · exact ⟨rfl, fun _ => rfl, .inl rfl, fun _ => rfl, fun _ _ => ⟨rfl, [], by simp⟩⟩
  · obtain ⟨hin, hcase⟩ := frameCommand_effect k bv (frameArgs w hh len) s
    refine ⟨hin.src, hin.bytes, .inl hin.cw, fun _ => hin.port, fun _ ho => ?_⟩
    obtain ⟨hn, -⟩ | ⟨hn, -⟩ | ⟨-, hkind, ⟨-, hout⟩ | ⟨-, hp⟩⟩ := hcase
    · exact absurd hn ho
    · exact absurd hn ho
    · exact ⟨hkind, [], by simp [hout]⟩
    · obtain ⟨e, he⟩ := hp.out
      exact ⟨hkind, [e], by simp, he⟩

/-- Settles O51: only the start of a frame and a pixel step write the position. -/
theorem positionMovesOnePixelAtATime : Obligations.PositionMovesOnePixelAtATime := by
  intro s t h
  obtain ⟨-, rfl⟩ | ⟨-, -, ⟨r, rfl⟩ | rfl⟩ | ⟨hm, k, bv, w, hh, len, hd, rfl⟩ := step_cases_frame h
  · unfold idleStep
    split <;> exact .inl ⟨rfl, rfl, rfl⟩
  · exact .inl ⟨rfl, rfl, rfl⟩
  · exact .inl ⟨rfl, rfl, rfl⟩
  · obtain ⟨-, ⟨-, hpos⟩ | ⟨ho, hkind, hpos⟩ | ⟨ho, -, ⟨hpos, -⟩ | ⟨hj, hp⟩⟩⟩ :=
      frameCommand_effect k bv (frameArgs w hh len) s
    · exact .inl hpos
    · exact .inr ⟨hm, k, bv, w, hh, len, hd, .inl ⟨ho, hkind, hpos.j, hpos.i, hpos.yp⟩⟩
    · exact .inl hpos
    · obtain ⟨e, he⟩ := hp.out
      exact .inr ⟨hm, k, bv, w, hh, len, hd, .inr ⟨ho, hj, hp.yp, by simp [he], hp.i, hp.j⟩⟩

/-! ### The invariant: reset and acceptance -/

/-- Settles O45: at reset no response is valid, nothing is in flight and OUT is empty. -/
theorem resetMeetsTheInvariant : Obligations.ResetMeetsTheInvariant where
  srcWf := reset_src_wf
  uRange := by decide
  vRange := by decide
  busyNoResp := fun _ => rfl
  noResp := fun _ => ⟨rfl, rfl, rfl, rfl⟩
  fresh := fun _ _ => rfl
  codeOfFault := by decide
  opcEcho := nofun
  outShape := nofun
  nothingResp := nofun
  illegalResp := nofun
  boundsResp := nofun
  okFrame := nofun
  flight := nofun

/-- Acceptance gives a state in which no response is valid and no frame is started. -/
theorem inv_accept {s : State} (c : Cmd) (h : Inv s) : Inv (accept c s) where
  srcWf := h.srcWf
  uRange := h.uRange
  vRange := h.vRange
  busyNoResp := fun _ => rfl
  noResp := fun _ => ⟨rfl, rfl, rfl, rfl⟩
  fresh := nofun
  codeOfFault := ⟨nofun, fun hc => absurd rfl hc⟩
  opcEcho := nofun
  outShape := nofun
  nothingResp := nofun
  illegalResp := nofun
  boundsResp := nofun
  okFrame := nofun
  flight := fun _ ho => absurd rfl ho

theorem inv_idleStep {s : State} (h : Inv s) : Inv (idleStep s) := by
  unfold idleStep
  split
  · exact h
  · exact inv_accept _ h

/-! ### The invariant: a command in flight and its response -/

/-- What the invariant says of a BUSY state, but for the position of a started frame. -/
structure Running (s : State) : Prop where
  srcWf : Memory.wf s.src = true
  uRange : -128 ≤ s.u ∧ s.u ≤ 127
  vRange : -128 ≤ s.v ∧ s.v ≤ 127
  busy : s.mode = .busy
  respValid : s.respValid = false
  noResp : s.kind = .ok ∧ s.code = .noFault ∧ s.opc = 0#8 ∧ s.res = Res.zero
  outShape : ∀ e ∈ s.out, elemKind e = s.outKind

theorem running_of_inv {s : State} (h : Inv s) (hm : s.mode = .busy) : Running s where
  srcWf := h.srcWf
  uRange := h.uRange
  vRange := h.vRange
  busy := hm
  respValid := h.busyNoResp hm
  noResp := h.noResp (h.busyNoResp hm)
  outShape := h.outShape

/-- The invariant of a BUSY state is `Running` and the position of the frame in flight. -/
theorem Running.inv {s : State} (h : Running s)
    (hf : s.outKind ≠ .none → ∃ k w hh len, decode s.cw = .ok (frameInstr k true w hh len) ∧
      s.outKind = outKindOf k ∧ InFlight k (frameArgs w hh len) s) : Inv s := by
  obtain ⟨hk, hc, -, -⟩ := h.noResp
  exact
    { srcWf := h.srcWf
      uRange := h.uRange
      vRange := h.vRange
      busyNoResp := fun _ => h.respValid
      noResp := fun _ => h.noResp
      fresh := by simp [h.busy]
      codeOfFault := by simp [hk, hc]
      opcEcho := by simp [h.respValid]
      outShape := h.outShape
      nothingResp := by simp [hk]
      illegalResp := by simp [hc]
      boundsResp := by simp [hc]
      okFrame := by simp [h.respValid]
      flight := fun _ => hf }

/-- What a response must say of the OUT and the latch it leaves (10_state.md R14; 30_encoding.md R58 to R60). -/
structure ResponseFits (k : RespKind) (c : FaultCode) (r : Res) (s : State) : Prop where
  code : k = .fault ↔ c ≠ .noFault
  nothing : k = .nothing → r = Res.zero ∧ s.outKind = .none
  illegal : c = .illegalCmd → r = ⟨s.cw.w0, 0#32, 0#32, 0#32⟩ ∧ s.outKind = .none
  bounds : c = .bounds → s.outKind ≠ .none ∧
    (r = ⟨BitVec.ofNat 32 s.out.length, 1#32, 0#32, 0#32⟩ ∨ r = ⟨BitVec.ofNat 32 s.out.length, 2#32, 0#32, 0#32⟩)
  okFrame : k = .ok → s.outKind ≠ .none → r = ⟨BitVec.ofNat 32 s.out.length, 0#32, 0#32, 0#32⟩

/-- Completion with a fitting response gives the invariant. -/
theorem Running.inv_respond {s : State} {k : RespKind} {c : FaultCode} {r : Res} (h : Running s)
    (hr : ResponseFits k c r s) : Inv (respond k c r s) where
  srcWf := h.srcWf
  uRange := h.uRange
  vRange := h.vRange
  busyNoResp := nofun
  noResp := nofun
  fresh := nofun
  codeOfFault := hr.code
  opcEcho := fun _ => rfl
  outShape := h.outShape
  nothingResp := hr.nothing
  illegalResp := hr.illegal
  boundsResp := hr.bounds
  okFrame := fun _ => hr.okFrame
  flight := nofun

theorem responseFits_ok {s : State} (r : Res) (ho : s.outKind = .none) : ResponseFits .ok .noFault r s :=
  ⟨by decide, nofun, nofun, nofun, fun _ h => absurd ho h⟩

theorem responseFits_nothing {s : State} (ho : s.outKind = .none) : ResponseFits .nothing .noFault Res.zero s :=
  ⟨by decide, fun _ => ⟨rfl, ho⟩, nofun, nofun, nofun⟩

theorem responseFits_illegal {s : State} (ho : s.outKind = .none) :
    ResponseFits .fault .illegalCmd ⟨s.cw.w0, 0#32, 0#32, 0#32⟩ s :=
  ⟨by decide, nofun, fun _ => ⟨rfl, ho⟩, nofun, nofun⟩

theorem responseFits_frame {s : State} {n : Nat} (hn : s.out.length = n) :
    ResponseFits .ok .noFault ⟨BitVec.ofNat 32 n, 0#32, 0#32, 0#32⟩ s :=
  ⟨by decide, nofun, nofun, nofun, fun _ _ => by rw [hn]⟩

theorem responseFits_bounds {s : State} {which : SrcRead} (ho : s.outKind ≠ .none) (hn : s.out.length = s.yp)
    (hw : which ≠ .y) : ResponseFits .fault .bounds ⟨BitVec.ofNat 32 s.yp, whichWord which, 0#32, 0#32⟩ s := by
  refine ⟨by decide, nofun, nofun, fun _ => ⟨ho, ?_⟩, nofun⟩
  rw [hn]
  cases which with
  | y => exact absurd rfl hw
  | v => exact .inl rfl
  | u => exact .inr rfl

/-! ### The frame in flight: reads and position -/

theorem outKindOf_ne_none (k : FrameKind) : outKindOf k ≠ .none := by cases k <;> decide

theorem elemKind_elemOf (k : FrameKind) (c : Rgb18) : elemKind (elemOf k c) = outKindOf k := by cases k <;> rfl

theorem chromaOffset_toNat_range (b : Byte) : -128 ≤ chromaOffset b.toNat ∧ chromaOffset b.toNat ≤ 127 := by
  have : b.toNat < 256 := b.isLt
  unfold chromaOffset Config.cOffset
  omega

theorem frameOut_length (k : FrameKind) (m : List Host.Cell) (w h n : Nat) : (frameOut k m w h n).length = n := by
  simp [frameOut]

theorem frameOut_succ (k : FrameKind) (m : List Host.Cell) (w h n : Nat) :
    frameOut k m w h (n + 1) = frameOut k m w h n ++ [pixelElem k m w h n] := by
  simp [frameOut, List.range_succ]

/-- The pixel at row `j` and column `i` is number `j * w + i`. -/
theorem pixelElem_at (k : FrameKind) (m : List Host.Cell) {w i : Nat} (h j : Nat) (hi : i < w) :
    pixelElem k m w h (j * w + i) = elemOf k (pixelChannels m w h j i) := by
  have hdiv : (j * w + i) / w = j := by
    rw [Nat.mul_comm, Nat.mul_add_div (by omega), Nat.div_eq_of_lt hi, Nat.add_zero]
  have hmod : (j * w + i) % w = i := by rw [Nat.mul_comm, Nat.mul_add_mod, Nat.mod_eq_of_lt hi]
  rw [pixelElem, hdiv, hmod]

section frame
variable {k : FrameKind} {a : FrameArgs} {s : State}

/-- A pixel of the frame has a number below `width * height`. -/
theorem yp_lt_of_inFlight (h : InFlight k a s) : s.yp < a.width * a.height := by
  have hle : (s.j + 1) * a.width ≤ a.height * a.width := Nat.mul_le_mul_right _ h.row
  have := h.pos
  have := h.col
  rw [Nat.mul_comm a.width]
  rw [Nat.add_mul] at hle
  omega

/-- A luma read below the frame's size is below LEN: the first pixel needs one byte, and every later one is read after
the first chroma pair, which stands behind the luma (60_exceptions.md R144). -/
theorem yp_lt_len_of_inFlight (h : InFlight k a s) : s.yp < a.len := by
  have hlen := h.lenPos
  have hyp := yp_lt_of_inFlight h
  by_cases h0 : s.yp = 0
  · omega
  · have := h.passed h0
    omega

/-- At an even column the chroma pointer of the pixel is the closed form of 20_memory.md R31. -/
theorem rowStart_uvp_of_even (h : InFlight k a s) (hi : s.i % 2 = 0) :
    (rowStart a s).uvp = vIndex a.width a.height s.j s.i := by
  rw [rowStart_uvp, chromaPointer_eq, vIndex]
  split
  · next h0 => simp [h0]
  · next h0 =>
    rw [h.chromaPtr h0]
    omega

/-- At an odd column the chroma pointer stands behind the pair that is held. -/
theorem rowStart_uvp_of_odd (h : InFlight k a s) (hi : s.i % 2 = 1) :
    (rowStart a s).uvp = vIndex a.width a.height s.j s.i + 2 := by
  have h0 : s.i ≠ 0 := by omega
  rw [rowStart_uvp, chromaPointer_eq, if_neg h0, h.chromaPtr h0, vIndex]
  omega

/-- Two columns of one pair have one chroma index. -/
theorem vIndex_succ_of_even (w h j : Nat) {i : Nat} (hi : i % 2 = 0) : vIndex w h j (i + 1) = vIndex w h j i := by
  unfold vIndex
  omega

/-- Every chroma index is at or behind the end of the luma. -/
theorem le_vIndex (w h j i : Nat) : w * h ≤ vIndex w h j i := by
  unfold vIndex
  omega

/-- The pixel after column `i`: the next one of the row, or the first one of the next row (10_state.md R15). -/
theorem next_cases (w i j : Nat) :
    (i + 1 = w ∧ nextCol w i = 0 ∧ nextRow w i j = j + 1) ∨
    (i + 1 ≠ w ∧ nextCol w i = i + 1 ∧ nextRow w i j = j) := by
  by_cases h : i + 1 = w <;> simp [nextCol, nextRow, h]

end frame

/-! ### The frame in flight: one pixel -/

section pixelDone
variable (k : FrameKind) (a : FrameArgs) (Y : Nat) (s : State)

@[simp] theorem pixelDone_j : (pixelDone k a Y s).j = nextRow a.width s.i s.j := rfl
@[simp] theorem pixelDone_i : (pixelDone k a Y s).i = nextCol a.width s.i := rfl
@[simp] theorem pixelDone_yp : (pixelDone k a Y s).yp = s.yp + 1 := rfl
@[simp] theorem pixelDone_uvp : (pixelDone k a Y s).uvp = s.uvp := rfl
@[simp] theorem pixelDone_u : (pixelDone k a Y s).u = s.u := rfl
@[simp] theorem pixelDone_v : (pixelDone k a Y s).v = s.v := rfl
@[simp] theorem pixelDone_src : (pixelDone k a Y s).src = s.src := rfl
@[simp] theorem pixelDone_out :
    (pixelDone k a Y s).out = s.out ++ [elemOf k (convert (lumaOffset Y) s.u s.v)] := rfl

end pixelDone

/-- A pixel whose chroma pair is held: the state between the chroma fetch and the write (41_frame_decoder.md R117). -/
structure PixelReady (k : FrameKind) (a : FrameArgs) (s : State) : Prop where
  col : s.i < a.width
  row : s.j < a.height
  pos : s.yp = s.j * a.width + s.i
  outIs : s.out = frameOut k s.src a.width a.height s.yp
  chromaPtr : s.uvp = vIndex a.width a.height s.j s.i + 2
  heldV : s.v = chromaOffset (byteAt s.src (vIndex a.width a.height s.j s.i))
  heldU : s.u = chromaOffset (byteAt s.src (vIndex a.width a.height s.j s.i + 1))
  passed : a.width * a.height + 2 ≤ a.len

section frame
variable {k : FrameKind} {a : FrameArgs} {s : State}

/-- At an odd column the pair of the column before is held. -/
theorem pixelReady_of_odd (h : InFlight k a s) (hi : s.i % 2 = 1) : PixelReady k a (rowStart a s) where
  col := h.col
  row := h.row
  pos := h.pos
  outIs := h.outIs
  chromaPtr := rowStart_uvp_of_odd h hi
  heldV := h.heldV hi
  heldU := h.heldU hi
  passed := h.passed (by have := h.pos; omega)

/-- At an even column the pair is the two bytes at the chroma pointer. -/
theorem pixelReady_of_even (h : InFlight k a s) (hi : s.i % 2 = 0) (hlen : (rowStart a s).uvp + 1 < a.len) :
    PixelReady k a (loadChroma (byteAt s.src (rowStart a s).uvp) (byteAt s.src ((rowStart a s).uvp + 1))
      (rowStart a s)) := by
  have huvp := rowStart_uvp_of_even h hi
  have hle := le_vIndex a.width a.height s.j s.i
  rw [huvp] at hlen ⊢
  exact
    { col := h.col
      row := h.row
      pos := h.pos
      outIs := h.outIs
      chromaPtr := congrArg (· + 2) huvp
      heldV := rfl
      heldU := rfl
      passed := by omega }

/-- The pixel step appends the element of its pixel number. -/
theorem PixelReady.out_pixelDone (h : PixelReady k a s) :
    (pixelDone k a (byteAt s.src s.yp) s).out = frameOut k s.src a.width a.height (s.yp + 1) := by
  have helem : pixelElem k s.src a.width a.height s.yp = elemOf k (convert (lumaOffset (byteAt s.src s.yp)) s.u s.v) := by
    rw [h.heldU, h.heldV, h.pos, pixelElem_at k s.src a.height s.j h.col, pixelChannels]
  rw [pixelDone_out, frameOut_succ, helem, ← h.outIs]

/-- After a pixel that is not the last one the frame stands at the next pixel. -/
theorem PixelReady.inFlight_pixelDone (h : PixelReady k a s) (hrow : nextRow a.width s.i s.j < a.height) :
    InFlight k a (pixelDone k a (byteAt s.src s.yp) s) := by
  have hcol := h.col
  have hpos := h.pos
  have hlen : 0 < a.len := lt_of_lt_of_le (Nat.succ_pos _) h.passed
  obtain ⟨hw, hi, hj⟩ | ⟨hw, hi, hj⟩ := next_cases a.width s.i s.j
  · have hnext : s.yp + 1 = (s.j + 1) * a.width := by rw [Nat.add_mul]; omega
    exact
      { lenPos := hlen
        col := by simp [hi]; omega
        row := hrow
        pos := by simpa [hi, hj] using hnext
        outIs := h.out_pixelDone
        chromaPtr := by simp [hi]
        heldV := by simp [hi]
        heldU := by simp [hi]
        passed := fun _ => h.passed }
  · have hpair (hodd : (s.i + 1) % 2 = 1) :
        vIndex a.width a.height s.j (s.i + 1) = vIndex a.width a.height s.j s.i :=
      vIndex_succ_of_even _ _ _ (by omega)
    exact
      { lenPos := hlen
        col := by simp [hi]; omega
        row := hrow
        pos := by simp [hi, hj]; omega
        outIs := h.out_pixelDone
        chromaPtr := fun _ => by
          simp only [pixelDone_uvp, pixelDone_i, pixelDone_j, hi, hj, h.chromaPtr, vIndex]
          omega
        heldV := by
          simp only [pixelDone_v, pixelDone_i, pixelDone_j, pixelDone_src, hi, hj]
          exact fun hodd => hpair hodd ▸ h.heldV
        heldU := by
          simp only [pixelDone_u, pixelDone_i, pixelDone_j, pixelDone_src, hi, hj]
          exact fun hodd => hpair hodd ▸ h.heldU
        passed := fun _ => h.passed }

/-- After the last pixel OUT holds every pixel of the frame. -/
theorem PixelReady.out_length_pixelDone (h : PixelReady k a s) (hrow : a.height ≤ nextRow a.width s.i s.j) :
    (pixelDone k a (byteAt s.src s.yp) s).out.length = a.width * a.height := by
  have hlast := h.row
  rw [h.out_pixelDone, frameOut_length, h.pos]
  obtain ⟨hw, -, hj⟩ | ⟨-, -, hj⟩ := next_cases a.width s.i s.j
  · have hh : a.height = s.j + 1 := by omega
    rw [hh, Nat.mul_add, Nat.mul_comm a.width]
    omega
  · omega

end frame

/-! ### The invariant: a frame command -/

/-- A frame command past its null check, but for the position. -/
structure Started (k : FrameKind) (a : FrameArgs) (s : State) : Prop where
  running : Running s
  latch : ∃ w hh len, a = frameArgs w hh len ∧ decode s.cw = .ok (frameInstr k true w hh len)
  outKind : s.outKind = outKindOf k

section frame
variable {k : FrameKind} {a : FrameArgs} {s : State}

theorem Started.outKind_ne_none (h : Started k a s) : s.outKind ≠ .none :=
  h.outKind ▸ outKindOf_ne_none k

theorem started_startFrame {w hh len : Word} (h : Running s)
    (hd : decode s.cw = .ok (frameInstr k true w hh len)) : Started k (frameArgs w hh len) (startFrame k s) where
  running := { h with outShape := nofun }
  latch := ⟨w, hh, len, rfl, hd⟩
  outKind := rfl

theorem started_rowStart (h : Started k a s) : Started k a (rowStart a s) where
  running := { h.running with }
  latch := h.latch
  outKind := h.outKind

theorem started_loadChroma (V U : Byte) (h : Started k a s) : Started k a (loadChroma V.toNat U.toNat s) where
  running := { h.running with uRange := chromaOffset_toNat_range U, vRange := chromaOffset_toNat_range V }
  latch := h.latch
  outKind := h.outKind

theorem started_pixelDone (Y : Nat) (h : Started k a s) : Started k a (pixelDone k a Y s) where
  running :=
    { h.running with
      outShape := fun e he => by
        rcases List.mem_append.mp he with he | he
        · exact h.running.outShape e he
        · rw [List.mem_singleton.mp he, elemKind_elemOf]
          exact h.outKind.symm }
  latch := h.latch
  outKind := h.outKind

/-- The completion test gives the invariant: with no pixel left OUT is whole, and otherwise the frame goes on. -/
theorem Started.inv_completeIfDone (h : Started k a s)
    (hdone : a.width = 0 ∨ a.height ≤ s.j → s.out.length = a.width * a.height)
    (hgo : a.width ≠ 0 → s.j < a.height → InFlight k a s) : Inv (completeIfDone a s) := by
  unfold completeIfDone
  split
  · next hd => exact h.running.inv_respond (responseFits_frame (hdone (frameDone_iff.mp hd)))
  · next hd =>
    obtain ⟨hw, hj⟩ := frameDone_eq_false.mp (Bool.eq_false_iff.mpr hd)
    obtain ⟨w, hh, len, rfl, hdec⟩ := h.latch
    exact h.running.inv fun _ => ⟨k, w, hh, len, hdec, h.outKind, hgo hw hj⟩

/-- The start of a frame gives the invariant. -/
theorem inv_startFrame (h : Started k a (startFrame k s)) (hlen : 0 < a.len) :
    Inv (completeIfDone a (startFrame k s)) := by
  refine h.inv_completeIfDone (fun hd => ?_) (fun hw hj => ?_)
  · rcases hd with hw | hj
    · simp [hw]
    · simp [Nat.le_zero.mp hj]
  · exact
      { lenPos := hlen
        col := Nat.pos_of_ne_zero hw
        row := hj
        pos := by simp
        outIs := rfl
        chromaPtr := absurd rfl
        heldV := nofun
        heldU := nofun
        passed := absurd rfl }

/-- The end of a pixel whose chroma pair is held gives the invariant. -/
theorem PixelReady.inv (h : PixelReady k a s) (hs : Started k a s) :
    Inv (completeIfDone a (pixelDone k a (byteAt s.src s.yp) s)) := by
  refine (started_pixelDone _ hs).inv_completeIfDone (fun hd => ?_) (fun _ hj => h.inFlight_pixelDone hj)
  have hw : a.width ≠ 0 := Nat.ne_zero_of_lt h.col
  exact h.out_length_pixelDone (hd.resolve_left hw)

/-- A BOUNDS fault of a chroma read gives the invariant. -/
theorem inv_raiseBounds {which : SrcRead} (h : InFlight k a s) (hs : Started k a s) (hw : which ≠ .y) :
    Inv (raiseBounds which (rowStart a s)) :=
  (started_rowStart hs).running.inv_respond
    (responseFits_bounds hs.outKind_ne_none ((congrArg List.length h.outIs).trans (frameOut_length _ _ _ _ _)) hw)

/-- A pixel step of a frame in flight keeps the invariant. -/
theorem inv_pixelStep (h : InFlight k a s) (hs : Started k a s) : Inv (pixelStep k a s) := by
  obtain ⟨hy, -⟩ | ⟨-, -, -, e⟩ | ⟨-, -, -, e⟩ | ⟨-, hi, hlen, e⟩ | ⟨-, hi, e⟩ := pixelStep_cases k a s
  · exact absurd (yp_lt_len_of_inFlight h) (Nat.not_lt.mpr hy)
  · exact e ▸ inv_raiseBounds h hs (by decide)
  · exact e ▸ inv_raiseBounds h hs (by decide)
  · exact e ▸ (pixelReady_of_even h hi hlen).inv (started_loadChroma _ _ (started_rowStart hs))
  · exact e ▸ (pixelReady_of_odd h hi).inv (started_rowStart hs)

/-- A step of a frame command keeps the invariant. -/
theorem inv_frameCommand {bv : Bool} {w hh len : Word} (h : Inv s) (hm : s.mode = .busy)
    (hd : decode s.cw = .ok (frameInstr k bv w hh len)) : Inv (frameCommand k bv (frameArgs w hh len) s) := by
  have hr := running_of_inv h hm
  by_cases ho : s.outKind = .none
  · obtain ⟨-, -, e⟩ | ⟨-, hn, e⟩ | ⟨hc, -⟩ | ⟨hc, -⟩ := frameCommand_cases k bv (frameArgs w hh len) s
    · exact e ▸ hr.inv_respond (responseFits_nothing ho)
    · obtain ⟨rfl, hlen⟩ := nullBuffer_eq_false.mp hn
      exact e ▸ inv_startFrame (started_startFrame hr hd) (Nat.pos_of_ne_zero hlen)
    · exact absurd ho hc
    · exact absurd ho hc
  · obtain ⟨k', w', hh', len', hd', hk, hf⟩ := h.flight hm ho
    obtain ⟨rfl, rfl, rfl, rfl, rfl⟩ := frameInstr_inj (Except.ok.inj (hd.symm.trans hd'))
    have hnd : frameDone (frameArgs w hh len) s = false :=
      frameDone_eq_false.mpr ⟨Nat.ne_zero_of_lt hf.col, hf.row⟩
    obtain ⟨hc, -⟩ | ⟨hc, -⟩ | ⟨-, hc, -⟩ | ⟨-, -, e⟩ := frameCommand_cases k true (frameArgs w hh len) s
    · exact absurd hc ho
    · exact absurd hc ho
    · exact absurd hc (Bool.eq_false_iff.mp hnd)
    · exact e ▸ inv_pixelStep hf ⟨hr, ⟨w, hh, len, rfl, hd⟩, hk⟩

end frame

/-- Settles O46: waiting, acceptance, completion and every step of a frame command keep the invariant. -/
theorem stepKeepsTheInvariant : Obligations.StepKeepsTheInvariant := by
  intro s t h hst
  obtain ⟨-, rfl⟩ | ⟨hm, hd, hr⟩ | ⟨hm, k, bv, w, hh, len, hd, rfl⟩ := step_cases_frame hst
  · exact inv_idleStep h
  · have ho : s.outKind = .none := by
      by_contra ho
      obtain ⟨k, w, hh, len, hd', -⟩ := h.flight hm ho
      exact hd k true w hh len hd'
    obtain ⟨r, rfl⟩ | rfl := hr
    · exact (running_of_inv h hm).inv_respond (responseFits_ok r ho)
    · exact (running_of_inv h hm).inv_respond (responseFits_illegal ho)
  · exact inv_frameCommand h hm hd

end Sys2Proof.Proofs

namespace Sys2Proof.Proofs

open Sys2Proof Sys2Proof.Machine Sys2Proof.Laws

/-! ### A command as bytes (20_memory.md R32, 30_encoding.md R50) -/

/-- The four bytes of a word, each by its place value. -/
theorem bytesOfWord_toNat (w : Word) : (bytesOfWord w).map BitVec.toNat =
    [w.toNat % 256, w.toNat / 2 ^ 8 % 256, w.toNat / 2 ^ 16 % 256, w.toNat / 2 ^ 24 % 256] := by
  simp [bytesOfWord, Nat.shiftRight_eq_div_pow]

/-- A word is read back from its four bytes. -/
theorem wordOfBytes_extract (w : Word) :
    wordOfBytes (w.extractLsb' 0 8) (w.extractLsb' 8 8) (w.extractLsb' 16 8) (w.extractLsb' 24 8) = w := by
  have hlt := w.isLt
  apply BitVec.eq_of_toNat_eq
  simp only [wordOfBytes_toNat, BitVec.extractLsb'_toNat, Nat.shiftRight_eq_div_pow]
  omega

/-- A command is read back from its bytes. -/
theorem ofBytes_toBytes (c : Cmd) : Cmd.ofBytes c.toBytes = some c := by
  simp [Cmd.toBytes, bytesOfWord, Cmd.ofBytes, wordOfBytes_extract]

/-- Settles O9: word by word, a command is its bytes by place value. -/
theorem commandBytesRoundTrip : Obligations.CommandBytesRoundTrip := by
  intro c
  refine ⟨?_, rfl, ofBytes_toBytes c, by rw [decodeBytes, ofBytes_toBytes]⟩
  simp only [Cmd.toBytes, List.map_append, bytesOfWord_toNat]
  rfl

/-! ### The host's moves (20_memory.md R30, R42; 60_exceptions.md R150) -/

/-- An entry before a buffer that lists nothing at its index is what that index reads as. -/
theorem read_cons {m : Memory} {a : Nat} (hm : Memory.read m a = unlistedByte) (c : Byte) (x : Nat) :
    Memory.read (Memory.cons a c m) x = if x = a then c else Memory.read m x := by
  unfold Memory.cons
  split
  · next hc =>
    split
    · next hx => rw [hx, hm, hc]
    · rfl
  · rfl

/-- After a write to a canonical buffer the index reads as the byte written, and every other one as before. -/
theorem read_write {m : Memory} {lo : Nat} (hm : Memory.wfFrom lo m = true) (a : Nat) (c : Byte) (x : Nat) :
    Memory.read (Memory.write m a c) x = if x = a then c else Memory.read m x := by
  induction m generalizing lo with
  | nil => exact read_cons rfl c x
  | cons p m ih =>
    obtain ⟨b, d⟩ := p
    have hall := hm
    simp only [Memory.wfFrom, Bool.and_eq_true, decide_eq_true_eq] at hall
    obtain ⟨⟨-, hd⟩, hrest⟩ := hall
    simp only [Memory.write]
    split
    · next hlt =>
      have hfrom : Memory.wfFrom b ((b, d) :: m) = true := by simp [Memory.wfFrom, hd, hrest]
      exact read_cons (read_below hfrom hlt) c x
    · split
      · next hab =>
        subst hab
        rw [read_cons (read_below hrest (Nat.lt_succ_self a)), Memory.read]
        split <;> rfl
      · next hab =>
        simp only [Memory.read, ih hrest]
        split
        · next hxb => rw [if_neg (by omega)]
        · rfl

/-- Settles O55: SRC is not frozen, so the host has the move, and it writes SRC alone. -/
theorem hostWriteChangesOneByte : Obligations.HostWriteChangesOneByte := by
  intro s a b hwf hfree
  refine ⟨{ s with src := Memory.write s.src a b }, by simp [hostMove, hfree], ?_, fun x hx => ?_,
    rfl, rfl, ⟨rfl, rfl, rfl⟩, ⟨rfl, rfl, rfl⟩, ⟨rfl, rfl⟩, ⟨rfl, rfl, rfl, rfl, rfl, rfl⟩⟩
  · rw [read_write hwf, if_pos rfl]
  · rw [read_write hwf, if_neg hx]

/-- A frame command with a present buffer names SRC. -/
theorem namesSrc_of_decode {c : Cmd} {k : FrameKind} {w h len : Word}
    (hd : decode c = .ok (frameInstr k true w h len)) : namesSrc c = true := by
  cases k <;> simp [namesSrc, hd, frameInstr]

/-- From the start of a frame command to its response SRC is frozen (20_memory.md R42). -/
theorem srcFrozen_of_started {s : State} (h : Inv s) (hm : s.mode = .busy) (ho : s.outKind ≠ .none) :
    srcFrozen s = true := by
  obtain ⟨k, w, hh, len, hd, -⟩ := h.flight hm ho
  simp [srcFrozen, hm, namesSrc_of_decode hd]

/-- Settles O47: the host presents only in IDLE, writes SRC only while no frame is in flight, and resets. -/
theorem hostMovesKeepTheInvariant : Obligations.HostMovesKeepTheInvariant := by
  intro m s t h hmove
  cases m with
  | present c =>
    obtain ⟨⟨hidle, -⟩, rfl⟩ : (s.mode = .idle ∧ s.port = none) ∧ { s with port := some c } = t := by
      simpa [hostMove] using hmove
    exact { h with flight := fun hm => absurd (hidle.symm.trans hm) (by decide) }
  | writeSrc idx b =>
    obtain ⟨hfree, rfl⟩ : srcFrozen s = false ∧ { s with src := Memory.write s.src idx b } = t := by
      simpa [hostMove] using hmove
    exact
      { h with
        srcWf := write_keeps_wf idx b h.srcWf
        flight := fun hm ho => absurd (srcFrozen_of_started h hm ho) (by simp [hfree]) }
  | reset =>
    obtain rfl : resetSignal s = t := by simpa [hostMove] using hmove
    exact { resetMeetsTheInvariant with srcWf := h.srcWf, flight := nofun }

/-! ### The bytes a frame needs (20_memory.md R38) -/

/-- The last chroma pair a frame reads ends where `need` says. -/
theorem vIndex_lastPair {w h : Nat} (hw : 0 < w) (hh : 0 < h) :
    vIndex w h (h - 1) (2 * ((w - 1) / 2)) + 2 = need w h := by
  have hrows : (h + 1) / 2 = (h - 1) / 2 + 1 := by omega
  rw [need, if_neg (by omega), vIndex, hrows, Nat.add_mul]
  omega

/-- No pair at an even column of the frame ends behind `need`. -/
theorem vIndex_lt_need {w h row col : Nat} (hrow : row < h) (hcol : col < w) (heven : col % 2 = 0) :
    vIndex w h row col + 1 < need w h := by
  have hrows : (row / 2 + 1) * w ≤ (h + 1) / 2 * w := Nat.mul_le_mul_right w (by omega)
  rw [Nat.add_mul] at hrows
  rw [need, if_neg (by omega), vIndex]
  omega

/-- The luma of the frame is part of what it needs. -/
theorem size_le_need (w h : Nat) : w * h ≤ need w h := by
  unfold need
  split
  · next hz => rcases hz with rfl | rfl <;> simp
  · omega

/-- The number of the pixel at row `j` and column `i` gives the row and the column back. -/
theorem row_col_of_number {w i n : Nat} (j : Nat) (hi : i < w) (hn : n = j * w + i) : n / w = j ∧ n % w = i :=
  (Nat.div_mod_unique (Nat.zero_lt_of_lt hi)).mpr ⟨by rw [hn, Nat.mul_comm, Nat.add_comm], hi⟩

/-- With LEN at least `need` every read of every pixel is below LEN. -/
theorem readsFit_of_need_le {w h len n : Nat} (hlen : need w h ≤ len) (hn : n < w * h) : readsFit w h len n := by
  have hw : 0 < w := Nat.pos_of_mul_pos_right (Nat.zero_lt_of_lt hn)
  refine ⟨lt_of_lt_of_le hn ((size_le_need w h).trans hlen), fun heven => lt_of_lt_of_le ?_ hlen⟩
  exact vIndex_lt_need (Nat.div_lt_of_lt_mul hn) (Nat.mod_lt n hw) heven

/-- With LEN below `need` the last even column of the last row has a missing byte. -/
theorem exists_not_readsFit {w h len : Nat} (hw : 0 < w) (hh : 0 < h) (hlen : len < need w h) :
    ∃ n, n < w * h ∧ ¬readsFit w h len n := by
  have hcol : 2 * ((w - 1) / 2) < w := by omega
  obtain ⟨hdiv, hmod⟩ := row_col_of_number (h - 1) hcol rfl
  refine ⟨(h - 1) * w + 2 * ((w - 1) / 2), ?_, fun ⟨_, hfit⟩ => ?_⟩
  · calc (h - 1) * w + 2 * ((w - 1) / 2) < (h - 1) * w + w := by omega
      _ = w * h := by rw [← Nat.succ_mul, Nat.succ_eq_add_one, Nat.sub_add_cancel hh, Nat.mul_comm]
  · rw [hdiv, hmod] at hfit
    have hpair := vIndex_lastPair hw hh
    have := hfit (by omega)
    omega

/-- With LEN below `need` there is a first pixel with a missing byte. -/
theorem exists_first_not_readsFit {w h len : Nat} (hw : 0 < w) (hh : 0 < h) (hlen : len < need w h) :
    ∃ n, n < w * h ∧ (∀ m, m < n → readsFit w h len m) ∧ ¬readsFit w h len n := by
  have hex := exists_not_readsFit hw hh hlen
  obtain ⟨hn, hmiss⟩ := Nat.find_spec hex
  refine ⟨Nat.find hex, hn, fun m hlt => ?_, hmiss⟩
  by_contra hc
  exact Nat.find_min hex hlt ⟨hlt.trans hn, hc⟩

/-- With both dimensions even `need` is `width * height * 3 / 2`. -/
theorem two_mul_need_of_even {w h : Nat} (hw : w % 2 = 0) (hh : h % 2 = 0) : 2 * need w h = 3 * (w * h) := by
  unfold need
  split
  · next hz => rcases hz with rfl | rfl <;> simp
  · have hhalf : 2 * ((h + 1) / 2 * w) = w * h := by
      rw [← Nat.mul_assoc, show 2 * ((h + 1) / 2) = h by omega, Nat.mul_comm]
    omega

/-- Settles O43: the last pair of the last chroma row is the greatest index read, and half a frame at even sizes. -/
theorem needIsOnePastTheGreatestIndexRead : Obligations.NeedIsOnePastTheGreatestIndexRead :=
  ⟨fun _ _ _ hn => readsFit_of_need_le le_rfl hn, fun _ _ hw hh _ hlen => exists_not_readsFit hw hh hlen,
    fun _ _ hw hh => two_mul_need_of_even hw hh⟩

/-! ### A pixel step with a failing read (20_memory.md R33, 60_exceptions.md R142) -/

/-- The first read of a pixel step at or beyond LEN, in the order Y, V, U. -/
def FirstMissing (a : FrameArgs) (s : State) : SrcRead → Prop
  | .y => a.len ≤ s.yp
  | .v => s.yp < a.len ∧ s.i % 2 = 0 ∧ a.len ≤ (rowStart a s).uvp
  | .u => s.yp < a.len ∧ s.i % 2 = 0 ∧ a.len = (rowStart a s).uvp + 1

/-- A pixel step ends the command at its first read at or beyond LEN. -/
theorem pixelStep_of_firstMissing (k : FrameKind) {a : FrameArgs} {s : State} {which : SrcRead}
    (h : FirstMissing a s which) : pixelStep k a s = raiseBounds which (rowStart a s) := by
  have luma (hy : s.yp < a.len) : memRead a.len (rowStart a s) (rowStart a s).yp = some (byteAt s.src s.yp) :=
    memRead_eq_some.mpr ⟨hy, rfl⟩
  cases which with
  | y =>
    have hy : memRead a.len (rowStart a s) (rowStart a s).yp = none := memRead_eq_none.mpr h
    simp only [pixelStep, hy]
  | v =>
    obtain ⟨hy, hi, hv⟩ := h
    have hf : fetchChroma a (rowStart a s) = .error .v := by
      simp only [fetchChroma, Nat.and_one_is_mod, rowStart_i, hi, if_true, memRead_eq_none.mpr hv]
    simp only [pixelStep, luma hy, hf]
  | u =>
    obtain ⟨hy, hi, hu⟩ := h
    have hf : fetchChroma a (rowStart a s) = .error .u := by
      simp only [fetchChroma, Nat.and_one_is_mod, rowStart_i, hi, if_true,
        memRead_eq_some.mpr ⟨show (rowStart a s).uvp < a.len by omega, rfl⟩, memRead_eq_none.mpr (Nat.le_of_eq hu)]
    simp only [pixelStep, luma hy, hf]

/-- With a pixel left, a step of a started frame command is a pixel step. -/
theorem frameCommand_of_pixelLeft (k : FrameKind) (bv : Bool) {a : FrameArgs} {s : State} (ho : s.outKind ≠ .none)
    (hw : 0 < a.width) (hj : s.j < a.height) : frameCommand k bv a s = pixelStep k a s := by
  have hd : frameDone a s = false := frameDone_eq_false.mpr ⟨Nat.ne_of_gt hw, hj⟩
  simp [frameCommand, ho, hd]

/-- The meaning of a frame command is one step of it. -/
theorem exec_frameInstr (k : FrameKind) (bv : Bool) (w h len : Word) (s : State) :
    exec (frameInstr k bv w h len) s = .next (frameCommand k bv (frameArgs w h len) s) := by
  cases k <;> rfl

/-- Settles O38: the first missing read decides the fault, and the fault follows the row start alone. -/
theorem firstReadPastLenRaisesBounds : Obligations.FirstReadPastLenRaisesBounds := by
  intro k bv w h len s ho hw hj uvp which hwhich
  have huvp : (rowStart (frameArgs w h len) s).uvp = uvp := chromaPointer_eq _ _ _ _ _
  obtain ⟨rd, rfl, hmiss⟩ : ∃ rd, which = whichWord rd ∧ FirstMissing (frameArgs w h len) s rd := by
    obtain ⟨rfl, hy⟩ | ⟨rfl, hv⟩ | ⟨rfl, hu⟩ := hwhich
    · exact ⟨.y, rfl, hy⟩
    · exact ⟨.v, rfl, by simpa only [FirstMissing, huvp] using hv⟩
    · exact ⟨.u, rfl, by simpa only [FirstMissing, huvp] using hu⟩
  refine ⟨raiseBounds rd (rowStart (frameArgs w h len) s), ?_, ⟨rfl, rfl, rfl, rfl, rfl, rfl⟩, ⟨rfl, rfl⟩,
    ⟨rfl, rfl, rfl⟩, ⟨rfl, rfl, rfl, fun _ => rfl⟩, rfl, rfl, huvp⟩
  rw [exec_frameInstr, frameCommand_of_pixelLeft k bv ho hw hj, pixelStep_of_firstMissing k hmiss]

/-- Settles O40: the frame in flight keeps the pointer at the pair to fetch, or behind the pair it holds. -/
theorem chromaPointerIsTheClosedForm : Obligations.ChromaPointerIsTheClosedForm := by
  intro s k w h len hinv hm ho hd
  obtain ⟨k', w', h', len', hd', -, hf⟩ := hinv.flight hm ho
  obtain ⟨rfl, -, rfl, rfl, rfl⟩ := frameInstr_inj (Except.ok.inj (hd.symm.trans hd'))
  rcases Nat.mod_two_eq_zero_or_one s.i with hi | hi
  · rw [rowStart_uvp_of_even hf hi, if_pos hi, Nat.add_zero]
  · rw [rowStart_uvp_of_odd hf hi, if_neg (by omega)]

/-! ### One pixel of a frame in flight -/

section inFlight
variable {k : FrameKind} {a : FrameArgs} {s : State}

/-- A started frame with a pixel and a byte stands at its first pixel. -/
theorem inFlight_startFrame (k : FrameKind) (s : State) (hlen : 0 < a.len) (hw : 0 < a.width) (hh : 0 < a.height) :
    InFlight k a (startFrame k s) where
  lenPos := hlen
  col := hw
  row := hh
  pos := by simp
  outIs := rfl
  chromaPtr := absurd rfl
  heldV := nofun
  heldU := nofun
  passed := absurd rfl

/-- The position of a frame in flight is the row and the column of its pixel number. -/
theorem row_col_of_inFlight (h : InFlight k a s) : s.yp / a.width = s.j ∧ s.yp % a.width = s.i :=
  row_col_of_number s.j h.col h.pos

/-- Before the last pixel a row follows or the row goes on. -/
theorem nextRow_lt_of_inFlight (h : InFlight k a s) (hmore : s.yp + 1 < a.width * a.height) :
    nextRow a.width s.i s.j < a.height := by
  have hpos := h.pos
  obtain ⟨hw, -, hj⟩ | ⟨-, -, hj⟩ := next_cases a.width s.i s.j
  · have hnext : a.width * (s.j + 1) = s.yp + 1 := by
      rw [Nat.mul_add, Nat.mul_comm]
      omega
    rw [hj]
    exact Nat.lt_of_mul_lt_mul_left (hnext ▸ hmore)
  · rw [hj]
    exact h.row

/-- A pixel whose reads are below LEN: its pair is held, its element appended, and the completion test made. -/
theorem pixelStep_of_readsFit (h : InFlight k a s) (hfit : readsFit a.width a.height a.len s.yp) :
    ∃ s', PixelReady k a s' ∧ s'.mode = s.mode ∧ KeepsInputs s s' ∧ KeepsPosition s s' ∧
      pixelStep k a s = completeIfDone a (pixelDone k a (byteAt s'.src s'.yp) s') := by
  obtain ⟨hy, hpair⟩ := hfit
  obtain ⟨hdiv, hmod⟩ := row_col_of_inFlight h
  rw [hdiv, hmod] at hpair
  have huvp := rowStart_uvp_of_even h
  obtain ⟨hc, -⟩ | ⟨-, hi, hc, -⟩ | ⟨-, hi, hc, -⟩ | ⟨-, hi, hlen, e⟩ | ⟨-, hi, e⟩ := pixelStep_cases k a s
  · omega
  · have := hpair hi
    have := huvp hi
    omega
  · have := hpair hi
    have := huvp hi
    omega
  · exact ⟨_, pixelReady_of_even h hi hlen, rfl, ⟨rfl, rfl, rfl, fun _ => rfl⟩, ⟨rfl, rfl, rfl⟩, e⟩
  · exact ⟨_, pixelReady_of_odd h hi, rfl, ⟨rfl, rfl, rfl, fun _ => rfl⟩, ⟨rfl, rfl, rfl⟩, e⟩

/-- After a pixel whose reads are below LEN and that is not the last one, the frame is in flight at the next pixel. -/
theorem inFlight_pixelStep (h : InFlight k a s) (hfit : readsFit a.width a.height a.len s.yp)
    (hmore : s.yp + 1 < a.width * a.height) :
    InFlight k a (pixelStep k a s) ∧ (pixelStep k a s).mode = s.mode ∧ (pixelStep k a s).yp = s.yp + 1 := by
  obtain ⟨s', hready, hmode, -, ⟨hj, hi, hyp⟩, e⟩ := pixelStep_of_readsFit h hfit
  have hrow : nextRow a.width s'.i s'.j < a.height := hi ▸ hj ▸ nextRow_lt_of_inFlight h hmore
  have hnd : frameDone a (pixelDone k a (byteAt s'.src s'.yp) s') = false :=
    frameDone_eq_false.mpr ⟨Nat.ne_zero_of_lt h.col, hrow⟩
  rw [e, completeIfDone, if_neg (Bool.eq_false_iff.mp hnd)]
  exact ⟨hready.inFlight_pixelDone hrow, hmode, congrArg (· + 1) hyp⟩

/-- The first missing read of a pixel one of whose reads is at or beyond LEN: V when it is, and else U. -/
theorem firstMissing_of_inFlight (h : InFlight k a s) (hmiss : ¬readsFit a.width a.height a.len s.yp) :
    FirstMissing a s (if a.len ≤ vIndex a.width a.height (s.yp / a.width) (s.yp % a.width) then .v else .u) := by
  have hy := yp_lt_len_of_inFlight h
  have hpair : s.yp % a.width % 2 = 0 ∧
      a.len ≤ vIndex a.width a.height (s.yp / a.width) (s.yp % a.width) + 1 := by
    simpa [readsFit, hy] using hmiss
  obtain ⟨hdiv, hmod⟩ := row_col_of_inFlight h
  rw [hdiv, hmod] at hpair ⊢
  obtain ⟨hi, hu⟩ := hpair
  have huvp := rowStart_uvp_of_even h hi
  split
  · next hv => exact ⟨hy, hi, huvp ▸ hv⟩
  · next hv => exact ⟨hy, hi, by omega⟩

end inFlight

/-! ### The run of a frame command -/

/-- A run of `m` steps and then `n` more. -/
theorem run_add {s t : State} (m n : Nat) (h : Host.Core.run core m s = .next t) :
    Host.Core.run core (m + n) s = Host.Core.run core n t := by
  induction m generalizing s with
  | zero =>
    cases h
    rw [Nat.zero_add]
  | succ m ih =>
    cases hs : step s with
    | next s' =>
      rw [run_succ m hs] at h
      rw [Nat.add_right_comm, run_succ (m + n) hs]
      exact ih h
    | fault r => cases r
    | refused r =>
      have hcore : core.step s = .refused r := hs
      simp only [Host.Core.run, hcore] at h
      cases h

/-- A frame command in flight over the bytes `m`, before its pixel `n`. -/
structure AtPixel (k : FrameKind) (w h len : Word) (m : List Host.Cell) (n : Nat) (s : State) : Prop where
  busy : s.mode = .busy
  cw : s.cw = encode (frameInstr k true w h len)
  outKind : s.outKind = outKindOf k
  src : s.src = m
  yp : s.yp = n
  inFlight : InFlight k (frameArgs w h len) s

section atPixel
variable {k : FrameKind} {w h len : Word} {m : List Host.Cell} {n : Nat} {s : State}

/-- A BUSY step with a frame command in the latch is a step of that command. -/
theorem step_of_frameLatch (hm : s.mode = .busy) (hcw : s.cw = encode (frameInstr k true w h len)) :
    step s = .next (frameCommand k true (frameArgs w h len) s) := by
  have hwf : (frameInstr k true w h len).wellFormed = true := by cases k <;> rfl
  rw [step_of_decode hm (hcw ▸ decode_encode hwf), exec_frameInstr]

/-- A presented frame command with a pixel and a byte is before its first pixel after acceptance and the start. -/
theorem start_of_presented (hp : Presented (frameInstr k true w h len) s) (hlen : 0 < len.toNat)
    (hw : 0 < w.toNat) (hh : 0 < h.toNat) :
    ∃ t, Host.Core.run core 2 s = .next t ∧ AtPixel k w h len s.src 0 t := by
  have hn : nullBuffer true (frameArgs w h len) = false := nullBuffer_eq_false.mpr ⟨rfl, Nat.ne_of_gt hlen⟩
  have hd : frameDone (frameArgs w h len) (startFrame k (accept (encode (frameInstr k true w h len)) s)) = false :=
    frameDone_eq_false.mpr ⟨Nat.ne_of_gt hw, hh⟩
  refine ⟨startFrame k (accept (encode (frameInstr k true w h len)) s), ?_, rfl, rfl, rfl, rfl, rfl,
    inFlight_startFrame k _ hlen hw hh⟩
  rw [run_succ 1 (step_of_presented hp.idle hp.port), run_succ 0 (step_of_frameLatch rfl rfl)]
  simp [Host.Core.run, frameCommand, beginFrame, hn, completeIfDone, hd]

/-- In flight, a step is a pixel step. -/
theorem AtPixel.step_eq (hs : AtPixel k w h len m n s) : step s = .next (pixelStep k (frameArgs w h len) s) := by
  have ho : s.outKind ≠ .none := hs.outKind ▸ outKindOf_ne_none k
  rw [step_of_frameLatch hs.busy hs.cw,
    frameCommand_of_pixelLeft k true ho (Nat.zero_lt_of_lt hs.inFlight.col) hs.inFlight.row]

/-- A pixel that fits and is not the last one is followed by the next pixel. -/
theorem AtPixel.next (hs : AtPixel k w h len m n s) (hfit : readsFit w.toNat h.toNat len.toNat n)
    (hmore : n + 1 < w.toNat * h.toNat) : AtPixel k w h len m (n + 1) (pixelStep k (frameArgs w h len) s) := by
  obtain ⟨hin, hkind, -⟩ := pixelStep_effect k (frameArgs w h len) s
  obtain rfl := hs.yp
  obtain ⟨hf, hmode, hyp⟩ := inFlight_pixelStep hs.inFlight hfit hmore
  exact ⟨hmode.trans hs.busy, hin.cw.trans hs.cw, hkind.trans hs.outKind, hin.src.trans hs.src, hyp, hf⟩

/-- While the pixels fit, a run of `d` steps decodes `d` pixels. -/
theorem AtPixel.run (d : Nat) (hs : AtPixel k w h len m n s) (hlt : n + d < w.toNat * h.toNat)
    (hfit : ∀ p, p < n + d → readsFit w.toNat h.toNat len.toNat p) :
    ∃ t, Host.Core.run core d s = .next t ∧ AtPixel k w h len m (n + d) t := by
  induction d generalizing n s with
  | zero => exact ⟨s, rfl, hs⟩
  | succ d ih =>
    rw [← Nat.add_assoc, Nat.add_right_comm] at hlt hfit ⊢
    rw [run_succ d hs.step_eq]
    exact ih (hs.next (hfit n (by omega)) (by omega)) hlt hfit

/-- At a pixel with a missing byte the step ends the command: `RES[1]` is 1 when V is missing and else 2. -/
theorem AtPixel.step_of_missing (hs : AtPixel k w h len m n s) (hmiss : ¬readsFit w.toNat h.toNat len.toNat n) :
    ∃ which, step s = .next (raiseBounds which (rowStart (frameArgs w h len) s)) ∧ whichWord which =
      if len.toNat ≤ vIndex w.toNat h.toNat (n / w.toNat) (n % w.toNat) then 1#32 else 2#32 := by
  obtain rfl := hs.yp
  refine ⟨_, by rw [hs.step_eq, pixelStep_of_firstMissing k (firstMissing_of_inFlight hs.inFlight hmiss)], ?_⟩
  rw [apply_ite whichWord]
  rfl

end atPixel

/-- Settles O42: the run decodes the pixels before the first one with a missing byte, and faults at that one. -/
theorem shortBufferFaultsAtTheFirstMissingByte : Obligations.ShortBufferFaultsAtTheFirstMissingByte := by
  intro k w h len s hp hlen hshort
  have hpos : 0 < len.toNat := Nat.pos_of_ne_zero fun h0 => hlen (BitVec.eq_of_toNat_eq h0)
  obtain ⟨hw, hh⟩ : 0 < w.toNat ∧ 0 < h.toNat := by
    by_contra hz
    rw [need, if_pos (by omega)] at hshort
    omega
  obtain ⟨n, hn, hfit, hmiss⟩ := exists_first_not_readsFit hw hh hshort
  obtain ⟨s₀, hrun₀, hat₀⟩ := start_of_presented hp hpos hw hh
  obtain ⟨s₁, hrun₁, hat₁⟩ := hat₀.run n (by omega) (by simpa using hfit)
  rw [Nat.zero_add] at hat₁
  obtain ⟨which, hstep, hwhich⟩ := hat₁.step_of_missing hmiss
  have hrun : Host.Core.run core (n + 3) s = .next (raiseBounds which (rowStart (frameArgs w h len) s₁)) := by
    rw [show n + 3 = 2 + (n + 1) by omega, run_add 2 _ hrun₀, run_add n 1 hrun₁, run_succ 0 hstep]
    rfl
  have hout : s₁.out = frameOut k s.src w.toNat h.toNat n := by
    rw [hat₁.inFlight.outIs, hat₁.src, hat₁.yp]
  refine ⟨n, _, hn, hfit, hmiss, hat₁.yp ▸ yp_lt_len_of_inFlight hat₁.inFlight, hrun,
    ⟨rfl, rfl, rfl, rfl, congrArg Cmd.opc hat₁.cw, ?_⟩, hat₁.outKind, hout, hat₁.src⟩
  rw [← hwhich, ← hat₁.yp]
  rfl

end Sys2Proof.Proofs

namespace Sys2Proof.Proofs

open Sys2Proof Sys2Proof.Machine Sys2Proof.Laws

/-! ### What the decoder accepts (30_encoding.md R54, R55) -/

/-- Settles O1: the fields read from the encoding's first word are the ones it was built from. -/
theorem encodeThenDecodeIsIdentity : Obligations.EncodeThenDecodeIsIdentity := fun _ => decode_encode

theorem bv_eq_false (c : Cmd) : c.bv = false ↔ c.w0.toNat / 256 % 2 = 0 := by
  rw [← Bool.not_eq_true, bv_eq_true]
  omega

/-- With the reserved bits 0, the first word is OPC and BV. -/
theorem eq_encodeWord0_of_reserved {c : Cmd} (h : c.reserved = 0#23) :
    c = ⟨encodeWord0 c.opc c.bv, c.w1, c.w2, c.w3⟩ := by
  have hres : c.w0.toNat / 512 = 0 := by rw [← reserved_toNat, h]; rfl
  have hw0 : c.w0 = encodeWord0 c.opc c.bv := by
    apply BitVec.eq_of_toNat_eq
    rw [encodeWord0_toNat, opc_toNat]
    cases hb : c.bv with
    | false =>
      have hbit := (bv_eq_false c).mp hb
      simp only [Bool.false_eq_true, if_false]
      omega
    | true =>
      have hbit := (bv_eq_true c).mp hb
      simp only [if_true]
      omega
  rw [← hw0]

/-- What the one-operand form accepts. -/
theorem decodeOneOperand_eq_ok {mk : Word → Instr} {c : Cmd} {i : Instr} :
    decodeOneOperand mk c = .ok i ↔ c.bv = false ∧ c.w2 = 0#32 ∧ c.w3 = 0#32 ∧ i = mk c.w1 := by
  unfold decodeOneOperand
  split
  · next hbv => simp [hbv]
  · next hbv =>
    split
    · next hz => simp only [reduceCtorEq, false_iff]; tauto
    · next hz => simp [hbv, not_or.mp hz |>.imp not_not.mp not_not.mp, eq_comm (a := i)]

/-- What the three-channel form accepts. -/
theorem decodeThreeChannels_eq_ok {c : Cmd} {i : Instr} :
    decodeThreeChannels c = .ok i ↔
      c.bv = false ∧ (Instr.rgbToHsl c.w1 c.w2 c.w3).wellFormed = true ∧ i = .rgbToHsl c.w1 c.w2 c.w3 := by
  unfold decodeThreeChannels Instr.wellFormed
  split
  · next hbv => simp [hbv]
  · split <;> simp_all [eq_comm (a := i)]

/-- What the decoder accepts, row by row (30_encoding.md R54). -/
theorem decode_eq_ok {c : Cmd} {i : Instr} :
    decode c = .ok i ↔ c.reserved = 0#23 ∧
      ((c.opc = 1#8 ∧ c.bv = false ∧ c.w2 = 0#32 ∧ c.w3 = 0#32 ∧ i = .extractArgb c.w1) ∨
       (c.opc = 2#8 ∧ c.bv = false ∧ (Instr.rgbToHsl c.w1 c.w2 c.w3).wellFormed = true ∧
         i = .rgbToHsl c.w1 c.w2 c.w3) ∨
       (c.opc = 3#8 ∧ c.bv = false ∧ c.w2 = 0#32 ∧ c.w3 = 0#32 ∧ i = .brightnessScore c.w1) ∨
       (c.opc = 4#8 ∧ i = .decodeToRgb c.bv c.w1 c.w2 c.w3) ∨
       (c.opc = 5#8 ∧ i = .decodeToHsl c.bv c.w1 c.w2 c.w3)) := by
  unfold decode
  split
  · next hres => simp [hres]
  next hres =>
  rw [not_not.mp hres]
  split
  · next hopc => simp [hopc, decodeOneOperand_eq_ok]
  split
  · next hopc => simp [hopc, decodeThreeChannels_eq_ok]
  split
  · next hopc => simp [hopc, decodeOneOperand_eq_ok]
  split
  · next hopc => simp [hopc, eq_comm (a := i)]
  split
  · next hopc => simp [hopc, eq_comm (a := i)]
  · simp [*]

/-- Settles O2: with the reserved bits 0 a command is its fields, and each row fixes the fields that are no operand. -/
theorem decodeThenEncodeIsIdentity : Obligations.DecodeThenEncodeIsIdentity := by
  intro c i h
  obtain ⟨hres, hrow⟩ := decode_eq_ok.mp h
  have hc := eq_encodeWord0_of_reserved hres
  obtain ⟨hopc, hbv, h2, h3, rfl⟩ | ⟨hopc, hbv, hwf, rfl⟩ | ⟨hopc, hbv, h2, h3, rfl⟩ | ⟨hopc, rfl⟩ | ⟨hopc, rfl⟩ :=
    hrow
  · rw [hopc, hbv, h2, h3] at hc
    exact ⟨rfl, hc.symm⟩
  · rw [hopc, hbv] at hc
    exact ⟨hwf, hc.symm⟩
  · rw [hopc, hbv, h2, h3] at hc
    exact ⟨rfl, hc.symm⟩
  · rw [hopc] at hc
    exact ⟨rfl, hc.symm⟩
  · rw [hopc] at hc
    exact ⟨rfl, hc.symm⟩

/-! ### The illegal commands (30_encoding.md R55) -/

theorem wellFormed_rgbToHsl_iff (r g b : Word) : (Instr.rgbToHsl r g b).wellFormed = true ↔
    r.toNat ≤ 262143 ∧ g.toNat ≤ 262143 ∧ b.toNat ≤ 262143 := by
  simp [Instr.wellFormed, channelFits, and_assoc]

/-- The decoder answers every command: with a reason when it gives no instruction. -/
theorem exists_decode_eq_error_iff (c : Cmd) : (∃ e, decode c = .error e) ↔ ¬∃ i, decode c = .ok i := by
  cases decode c <;> simp

/-- The legal commands, row by row, by the numbers of their words. -/
theorem exists_decode_eq_ok_iff (c : Cmd) : (∃ i, decode c = .ok i) ↔ c.w0.toNat / 512 = 0 ∧
    (c.w0.toNat % 256 = 1 ∧ c.w0.toNat / 256 % 2 = 0 ∧ c.w2.toNat = 0 ∧ c.w3.toNat = 0 ∨
     c.w0.toNat % 256 = 2 ∧ c.w0.toNat / 256 % 2 = 0 ∧
       c.w1.toNat ≤ 262143 ∧ c.w2.toNat ≤ 262143 ∧ c.w3.toNat ≤ 262143 ∨
     c.w0.toNat % 256 = 3 ∧ c.w0.toNat / 256 % 2 = 0 ∧ c.w2.toNat = 0 ∧ c.w3.toNat = 0 ∨
     c.w0.toNat % 256 = 4 ∨ c.w0.toNat % 256 = 5) := by
  simp only [decode_eq_ok, exists_and_left, exists_or, exists_eq, and_true, ← BitVec.toNat_inj, reserved_toNat,
    opc_toNat, bv_eq_false, wellFormed_rgbToHsl_iff]
  rfl

/-- A BUSY step with an illegal command in the latch refuses it. -/
theorem step_of_illegal {s : State} {e : DecodeError} (hm : s.mode = .busy) (hd : decode s.cw = .error e) :
    step s = .next (raiseIllegal s) := by
  simp [step, hm, hd]

/-- Settles O4: the five kinds are what no row accepts, and the step that refuses a command only completes it. -/
theorem illegalWordsFaultAndNoOthers : Obligations.IllegalWordsFaultAndNoOthers := by
  refine ⟨fun c => ?_, fun s e hm hd => ⟨raiseIllegal s, step_of_illegal hm hd, ⟨rfl, rfl, rfl, rfl, rfl, rfl⟩,
    ⟨rfl, rfl, rfl, fun _ => rfl⟩, ⟨rfl, rfl, rfl⟩, ⟨rfl, rfl, rfl⟩, ⟨rfl, rfl⟩⟩⟩
  rw [exists_decode_eq_error_iff, exists_decode_eq_ok_iff]
  omega

/-- Settles O5 by running the decoder on the worked words. -/
theorem workedCommandWordsDecode : Obligations.WorkedCommandWordsDecode := by
  unfold Obligations.WorkedCommandWordsDecode
  decide

/-! ### The opcode map (30_encoding.md R54) -/

/-- A command is determined by its 128 bits. -/
theorem bits_injective : Function.Injective Cmd.bits := fun c d h => by
  rw [← ofTableWord_bits c, h, ofTableWord_bits]

/-- A command that selects a row matches it word by word. -/
theorem words_of_selects {c : Cmd} {row : OpcodeRow} (m e : Cmd) (hm : row.opcMask = m.bits)
    (he : row.opcMatch = e.bits) (h : c.selects row = true) :
    c.w0 &&& m.w0 = e.w0 ∧ c.w1 &&& m.w1 = e.w1 ∧ c.w2 &&& m.w2 = e.w2 ∧ c.w3 &&& m.w3 = e.w3 := by
  rw [Cmd.selects, beq_iff_eq, hm, he] at h
  have hand := EncodesItsRow.bits_and c.w0 c.w1 c.w2 c.w3 m.w0 m.w1 m.w2 m.w3
  obtain rfl := bits_injective (hand.symm.trans h)
  exact ⟨rfl, rfl, rfl, rfl⟩

/-- A full mask fixes every bit. -/
theorem eq_of_and_allOnes {n : Nat} {x y : BitVec n} (h : x &&& BitVec.allOnes n = y) : x = y := by
  rwa [BitVec.and_allOnes] at h

/-- The mask of a frame command's first word leaves BV free and fixes the rest. -/
theorem fields_of_frameMask {c : Cmd} {k : Byte} (h : c.w0 &&& 0xFFFFFEFF#32 = encodeWord0 k false) :
    c.reserved = 0#23 ∧ c.opc = k := by
  have hres := congrArg (fun w => (⟨w, 0#32, 0#32, 0#32⟩ : Cmd).reserved) h
  have hopc := congrArg (fun w => (⟨w, 0#32, 0#32, 0#32⟩ : Cmd).opc) h
  rw [reserved_encodeWord0, Cmd.reserved, BitVec.extractLsb'_and] at hres
  rw [opc_encodeWord0, Cmd.opc, BitVec.extractLsb'_and] at hopc
  exact ⟨eq_of_and_allOnes hres, eq_of_and_allOnes hopc⟩

/-- The mask of a scalar command's first word fixes all of it. -/
theorem fields_of_scalarMask {c : Cmd} {k : Byte} (h : c.w0 &&& 0xFFFFFFFF#32 = encodeWord0 k false) :
    c.reserved = 0#23 ∧ c.opc = k ∧ c.bv = false := by
  obtain ⟨w0, w1, w2, w3⟩ := c
  obtain rfl : w0 = encodeWord0 k false := eq_of_and_allOnes h
  simp

/-- A word without a bit of the channel mask is a channel that fits. -/
theorem channelFits_of_masked {w : Word} (h : w &&& 0xFFFC0000#32 = 0#32) : channelFits w = true := by
  have hlt := w.isLt
  have htop := congrArg (BitVec.extractLsb' 18 14) h
  rw [BitVec.extractLsb'_and] at htop
  have hdiv := congrArg BitVec.toNat (eq_of_and_allOnes htop : w.extractLsb' 18 14 = 0#14)
  rw [BitVec.extractLsb'_toNat, Nat.shiftRight_eq_div_pow, BitVec.toNat_ofNat] at hdiv
  simp only [channelFits, Config.channelMax, decide_eq_true_eq]
  omega

/-- What a row of a one-operand command fixes. -/
theorem fields_of_oneOperandRow {c : Cmd} {row : OpcodeRow} (k : Byte)
    (hm : row.opcMask = 0xFFFFFFFFFFFFFFFF00000000FFFFFFFF#128)
    (he : row.opcMatch = (⟨encodeWord0 k false, 0#32, 0#32, 0#32⟩ : Cmd).bits) (h : c.selects row = true) :
    c.reserved = 0#23 ∧ c.opc = k ∧ c.bv = false ∧ c.w2 = 0#32 ∧ c.w3 = 0#32 := by
  obtain ⟨h0, -, h2, h3⟩ := words_of_selects ⟨0xFFFFFFFF#32, 0#32, 0xFFFFFFFF#32, 0xFFFFFFFF#32⟩ _ hm he h
  obtain ⟨hres, hopc, hbv⟩ := fields_of_scalarMask h0
  exact ⟨hres, hopc, hbv, eq_of_and_allOnes h2, eq_of_and_allOnes h3⟩

/-- What a row of a frame command fixes. -/
theorem fields_of_frameRow {c : Cmd} {row : OpcodeRow} (k : Byte)
    (hm : row.opcMask = 0x000000000000000000000000FFFFFEFF#128)
    (he : row.opcMatch = (⟨encodeWord0 k false, 0#32, 0#32, 0#32⟩ : Cmd).bits) (h : c.selects row = true) :
    c.reserved = 0#23 ∧ c.opc = k :=
  fields_of_frameMask (words_of_selects ⟨0xFFFFFEFF#32, 0#32, 0#32, 0#32⟩ _ hm he h).1

/-- A command that selects a row decodes to that row's instruction. -/
theorem decode_of_selects {c : Cmd} {row : OpcodeRow} (hrow : row ∈ opcodeTable) (h : c.selects row = true) :
    ∃ i, decode c = .ok i ∧ i.mnemonic = row.mnemonic := by
  simp only [opcodeTable, List.mem_cons, List.not_mem_nil, or_false] at hrow
  obtain rfl | rfl | rfl | rfl | rfl := hrow
  · obtain ⟨hres, hopc, hbv, h2, h3⟩ := fields_of_oneOperandRow 0x01#8 rfl (by decide) h
    exact ⟨_, decode_eq_ok.mpr ⟨hres, .inl ⟨hopc, hbv, h2, h3, rfl⟩⟩, rfl⟩
  · obtain ⟨h0, h1, h2, h3⟩ := words_of_selects ⟨0xFFFFFFFF#32, 0xFFFC0000#32, 0xFFFC0000#32, 0xFFFC0000#32⟩
      ⟨encodeWord0 0x02#8 false, 0#32, 0#32, 0#32⟩ (by decide) (by decide) h
    obtain ⟨hres, hopc, hbv⟩ := fields_of_scalarMask h0
    have hwf : (Instr.rgbToHsl c.w1 c.w2 c.w3).wellFormed = true := by
      simp [Instr.wellFormed, channelFits_of_masked h1, channelFits_of_masked h2, channelFits_of_masked h3]
    exact ⟨_, decode_eq_ok.mpr ⟨hres, .inr (.inl ⟨hopc, hbv, hwf, rfl⟩)⟩, rfl⟩
  · obtain ⟨hres, hopc, hbv, h2, h3⟩ := fields_of_oneOperandRow 0x03#8 rfl (by decide) h
    exact ⟨_, decode_eq_ok.mpr ⟨hres, .inr (.inr (.inl ⟨hopc, hbv, h2, h3, rfl⟩))⟩, rfl⟩
  · obtain ⟨hres, hopc⟩ := fields_of_frameRow 0x04#8 rfl (by decide) h
    exact ⟨_, decode_eq_ok.mpr ⟨hres, .inr (.inr (.inr (.inl ⟨hopc, rfl⟩)))⟩, rfl⟩
  · obtain ⟨hres, hopc⟩ := fields_of_frameRow 0x05#8 rfl (by decide) h
    exact ⟨_, decode_eq_ok.mpr ⟨hres, .inr (.inr (.inr (.inr ⟨hopc, rfl⟩)))⟩, rfl⟩

/-- The words of a well-formed command select a row with its mnemonic. -/
theorem selects_encode (i : Instr) : EncodesItsRow.Statement i := by
  cases i with
  | extractArgb p => exact EncodesItsRow.extractArgb p
  | rgbToHsl r g b => exact EncodesItsRow.rgbToHsl r g b
  | brightnessScore p => exact EncodesItsRow.brightnessScore p
  | decodeToRgb bv w h len => exact EncodesItsRow.decodeToRgb bv w h len
  | decodeToHsl bv w h len => exact EncodesItsRow.decodeToHsl bv w h len

/-- No two rows have one mnemonic. -/
theorem row_eq_of_mnemonic_eq : ∀ p ∈ opcodeTable, ∀ q ∈ opcodeTable, p.mnemonic = q.mnemonic → p = q := by
  decide

/-- Settles O3: a row fixes what the decoder tests, and the decoder answers with one instruction, of one row. -/
theorem decoderFollowsOpcodeMap : Obligations.DecoderFollowsOpcodeMap := by
  refine ⟨fun c row hrow => ⟨decode_of_selects hrow, fun ⟨i, hd, hmn⟩ => ?_⟩, fun c p q hp hq hcp hcq => ?_⟩
  · obtain ⟨hwf, rfl⟩ := decodeThenEncodeIsIdentity c i hd
    obtain ⟨row', hrow', hmn', hsel⟩ := selects_encode i hwf
    rwa [← row_eq_of_mnemonic_eq row' hrow' row hrow (hmn'.trans hmn)]
  · obtain ⟨i, hi, hip⟩ := decode_of_selects hp hcp
    obtain ⟨j, hj, hjq⟩ := decode_of_selects hq hcq
    obtain rfl := Except.ok.inj (hi.symm.trans hj)
    exact row_eq_of_mnemonic_eq p hp q hq (hip.symm.trans hjq)

/-! ### The assembler (30_encoding.md R61) -/

/-- Settles O6: a line is the encoding of its command, and `CW[0]` is OPC with BV at bit 8. -/
theorem assembledLinesDecode : Obligations.AssembledLinesDecode :=
  ⟨fun _ h => decode_encode h, fun w h n => by simp [assemble, AsmLine.instr, encode, encodeWord0]⟩

/-! ### The characters of a line -/

/-- A character that is part of a mnemonic or an operand: no blank, no comma and no start of a comment. -/
def isPlain (ch : Char) : Bool := !isBlank ch && ch != ',' && ch != ';'

/-- A text of such characters. -/
def Plain (t : List Char) : Prop := t.all isPlain = true

/-- A plain character is none that the assembler cuts a line at. -/
theorem isPlain_iff {ch : Char} : isPlain ch = true ↔ isBlank ch = false ∧ ch ≠ ',' ∧ ch ≠ ';' := by
  simp [isPlain, and_assoc]

theorem Plain.of_mem {t : List Char} (h : Plain t) {ch : Char} (hch : ch ∈ t) :
    isBlank ch = false ∧ ch ≠ ',' ∧ ch ≠ ';' := isPlain_iff.mp (List.all_eq_true.mp h ch hch)

theorem isPlain_hexDigit : ∀ d : BitVec 4, isPlain (hexDigit d) = true := by decide

theorem plain_hexText (w : Word) : Plain (hexText w) := by
  have h0 : isPlain '0' = true := by decide
  have hx : isPlain 'x' = true := by decide
  simp [Plain, hexText, isPlain_hexDigit, h0, hx]

theorem plain_lenText (len : Option Word) : Plain (lenText len) := by
  cases len with
  | none => exact (by decide : ['N', 'U', 'L', 'L'].all isPlain = true)
  | some w => exact plain_hexText w

/-- Every command has a row of the opcode map. -/
theorem exists_row_of_mnemonic (i : Instr) : ∃ row ∈ opcodeTable, row.mnemonic = i.mnemonic := by
  cases i with
  | extractArgb => exact ⟨opcodeTable[0], by decide, rfl⟩
  | rgbToHsl => exact ⟨opcodeTable[1], by decide, rfl⟩
  | brightnessScore => exact ⟨opcodeTable[2], by decide, rfl⟩
  | decodeToRgb => exact ⟨opcodeTable[3], by decide, rfl⟩
  | decodeToHsl => exact ⟨opcodeTable[4], by decide, rfl⟩

/-- A mnemonic is a plain text that is not empty. -/
theorem plain_mnemonic (i : Instr) : Plain i.mnemonic.toList ∧ i.mnemonic.toList ≠ [] := by
  have hrows : ∀ row ∈ opcodeTable, row.mnemonic.toList.all isPlain = true ∧ row.mnemonic.toList ≠ [] := by
    decide
  obtain ⟨row, hrow, hmn⟩ := exists_row_of_mnemonic i
  exact hmn ▸ hrows row hrow

theorem plain_operandTexts (l : AsmLine) : ∀ t ∈ l.operandTexts, Plain t := by
  cases l <;> simp [AsmLine.operandTexts, plain_hexText, plain_lenText]

/-! ### Numbers -/

theorem digitValue_hexDigit : ∀ d : BitVec 4, digitValue (hexDigit d) = some d.toNat := by decide

/-- A hexadecimal digit multiplies what stands before it by 16. -/
theorem digitsValue_hexDigit (acc : Nat) (d : BitVec 4) (cs : List Char) :
    digitsValue 16 acc (hexDigit d :: cs) = digitsValue 16 (acc * 16 + d.toNat) cs := by
  have hlt : d.toNat < 16 := d.isLt
  simp [digitsValue, digitValue_hexDigit, hlt]

/-- The hexadecimal digit at bit `k`, read after the bits above it. -/
theorem digitsValue_hexDigit_extract (w : Word) (k : Nat) (cs : List Char) :
    digitsValue 16 (w.toNat / 2 ^ (k + 4)) (hexDigit (w.extractLsb' k 4) :: cs) =
      digitsValue 16 (w.toNat / 2 ^ k) cs := by
  rw [digitsValue_hexDigit, BitVec.extractLsb'_toNat, Nat.shiftRight_eq_div_pow, Nat.pow_add,
    ← Nat.div_div_eq_div_mul]
  exact congrArg (digitsValue 16 · cs) (Nat.div_add_mod' _ _)

/-- A written word is read back, digit by digit from the highest. -/
theorem readNumber_hexText (w : Word) : readNumber (hexText w) = some w := by
  have hval : digitsValue 16 0 ((hexText w).drop 2) = some w.toNat := by
    calc digitsValue 16 0 ((hexText w).drop 2)
        = digitsValue 16 (w.toNat / 2 ^ (28 + 4)) ((hexText w).drop 2) := by rw [Nat.div_eq_of_lt w.isLt]
      _ = digitsValue 16 (w.toNat / 2 ^ 0) [] := by
        rw [hexText, List.drop_succ_cons, List.drop_succ_cons, List.drop_zero, digitsValue_hexDigit_extract w 28,
          digitsValue_hexDigit_extract w 24, digitsValue_hexDigit_extract w 20, digitsValue_hexDigit_extract w 16,
          digitsValue_hexDigit_extract w 12, digitsValue_hexDigit_extract w 8, digitsValue_hexDigit_extract w 4,
          digitsValue_hexDigit_extract w 0]
      _ = some w.toNat := by rw [Nat.pow_zero, Nat.div_one]; rfl
  calc readNumber (hexText w) = (digitsValue 16 0 ((hexText w).drop 2)).bind wordOfNat := rfl
    _ = some w := by simp [hval, wordOfNat, w.isLt]

theorem readOperand_hexText (w : Word) : readOperand (hexText w) = some (.num w) := by
  rw [readOperand, if_neg (by simp [hexText]), readNumber_hexText]
  rfl

/-! ### The operands of a line -/

theorem splitCommas_of_no_comma {t : List Char} (h : ∀ ch ∈ t, ch ≠ ',') : splitCommas t = [t] := by
  induction t with
  | nil => rfl
  | cons ch t ih =>
    obtain ⟨hch, ht⟩ := List.forall_mem_cons.mp h
    rw [splitCommas, if_neg hch, ih ht]

theorem splitCommas_append_comma {t : List Char} (h : ∀ ch ∈ t, ch ≠ ',') (rest : List Char) :
    splitCommas (t ++ ',' :: rest) = t :: splitCommas rest := by
  induction t with
  | nil => rfl
  | cons ch t ih =>
    obtain ⟨hch, ht⟩ := List.forall_mem_cons.mp h
    rw [List.cons_append, splitCommas, if_neg hch, ih ht]

theorem blank_cons_no_comma {t : List Char} (h : Plain t) : ∀ ch ∈ ' ' :: t, ch ≠ ',' :=
  List.forall_mem_cons.mpr ⟨by decide, fun _ hch => (h.of_mem hch).2.1⟩

/-- Cutting at the commas gives the joined texts, each after the blank that stands before it. -/
theorem splitCommas_joinCommas {ts : List (List Char)} (hne : ts ≠ []) (h : ∀ t ∈ ts, Plain t) :
    splitCommas (' ' :: joinCommas ts) = ts.map (' ' :: ·) := by
  induction ts with
  | nil => exact absurd rfl hne
  | cons t ts ih =>
    obtain ⟨ht, hts⟩ := List.forall_mem_cons.mp h
    cases ts with
    | nil => exact splitCommas_of_no_comma (blank_cons_no_comma ht)
    | cons u ts =>
      calc splitCommas (' ' :: joinCommas (t :: u :: ts))
          = splitCommas ((' ' :: t) ++ ',' :: ' ' :: joinCommas (u :: ts)) := by simp [joinCommas]
        _ = (' ' :: t) :: splitCommas (' ' :: joinCommas (u :: ts)) :=
          splitCommas_append_comma (blank_cons_no_comma ht) _
        _ = (t :: u :: ts).map (' ' :: ·) := by rw [ih (by simp) hts]; rfl

theorem dropWhile_isBlank_of_plain {t : List Char} (h : Plain t) : t.dropWhile isBlank = t := by
  rw [List.dropWhile_eq_self_iff]
  intro hl
  simp [(h.of_mem (List.getElem_mem hl)).1]

theorem trimBlanks_blank_cons {t : List Char} (h : Plain t) : trimBlanks (' ' :: t) = t := by
  have hrev : Plain t.reverse := List.all_reverse.trans h
  rw [trimBlanks, List.dropWhile_cons_of_pos (by decide), dropWhile_isBlank_of_plain h,
    dropWhile_isBlank_of_plain hrev, List.reverse_reverse]

/-- The operands after a mnemonic are read one by one. -/
theorem readOperands_joinCommas {ts : List (List Char)} (hne : ts ≠ []) (h : ∀ t ∈ ts, Plain t) :
    readOperands (' ' :: joinCommas ts) = ts.mapM readOperand := by
  have htrim : (ts.map (' ' :: ·)).map trimBlanks = ts := by
    rw [List.map_map]
    exact (List.map_congr_left fun t ht => trimBlanks_blank_cons (h t ht)).trans (List.map_id ts)
  calc readOperands (' ' :: joinCommas ts)
      = (ts.map (' ' :: ·)).mapM (readOperand ∘ trimBlanks) := by
        rw [readOperands, splitCommas_joinCommas hne h]
        rfl
    _ = ts.mapM readOperand := by rw [← List.mapM_map, htrim]

/-! ### A whole line -/

theorem joinCommas_no_semicolon {ts : List (List Char)} (h : ∀ t ∈ ts, Plain t) :
    ∀ ch ∈ joinCommas ts, ch ≠ ';' := by
  induction ts with
  | nil => nofun
  | cons t ts ih =>
    obtain ⟨ht, hts⟩ := List.forall_mem_cons.mp h
    have hch : ∀ ch ∈ t, ch ≠ ';' := fun _ hch => (ht.of_mem hch).2.2
    cases ts with
    | nil => exact hch
    | cons u ts =>
      simp only [joinCommas, List.forall_mem_append]
      exact ⟨⟨hch, by simp⟩, ih hts⟩

/-- A line of a mnemonic, a blank and joined operands is cut into these parts. -/
theorem readLine_joinCommas {m : List Char} {ts : List (List Char)} (hm : Plain m) (hne : m ≠ [])
    (hts : ∀ t ∈ ts, Plain t) (htsne : ts ≠ []) :
    readLine (m ++ [' '] ++ joinCommas ts) = (ts.mapM readOperand).bind (readForm (String.ofList m)) := by
  have hblank : ∀ ch ∈ m, (!isBlank ch) = true := fun _ hch => by simp [(hm.of_mem hch).1]
  have hnocomment : (m ++ ' ' :: joinCommas ts).takeWhile (fun ch => ch != ';') = m ++ ' ' :: joinCommas ts := by
    rw [List.takeWhile_eq_self_iff]
    simp only [bne_iff_ne, List.forall_mem_append, List.forall_mem_cons]
    exact ⟨fun _ hch => (hm.of_mem hch).2.2, by decide, joinCommas_no_semicolon hts⟩
  have hbody : (m ++ ' ' :: joinCommas ts).dropWhile isBlank = m ++ ' ' :: joinCommas ts := by
    rw [List.dropWhile_append, dropWhile_isBlank_of_plain hm, if_neg (by simpa using hne)]
  have hmn : (m ++ ' ' :: joinCommas ts).takeWhile (fun ch => !isBlank ch) = m := by
    rw [List.takeWhile_append_of_pos hblank, List.takeWhile_cons_of_neg (by decide), List.append_nil]
  have hops : (m ++ ' ' :: joinCommas ts).dropWhile (fun ch => !isBlank ch) = ' ' :: joinCommas ts := by
    rw [List.dropWhile_append_of_pos hblank, List.dropWhile_cons_of_neg (by decide)]
  rw [List.append_assoc, List.singleton_append, readLine, hnocomment, hbody, hmn, hops,
    readOperands_joinCommas htsne hts]

/-- The operand `len` as it is read. -/
def lenOperand : Option Word → AsmOperand
  | none => .null
  | some w => .num w

/-- The operands of a line as they are read. -/
def operandsOf : AsmLine → List AsmOperand
  | .extractArgb p => [.num p]
  | .rgbToHsl r g b => [.num r, .num g, .num b]
  | .brightnessScore p => [.num p]
  | .decodeToRgb w h len => [.num w, .num h, lenOperand len]
  | .decodeToHsl w h len => [.num w, .num h, lenOperand len]

theorem readOperand_lenText (len : Option Word) : readOperand (lenText len) = some (lenOperand len) := by
  cases len with
  | none => rfl
  | some w => exact readOperand_hexText w

/-- Every operand of a line is read back. -/
theorem mapM_readOperand_operandTexts (l : AsmLine) : l.operandTexts.mapM readOperand = some (operandsOf l) := by
  cases l <;> simp [AsmLine.operandTexts, operandsOf, readOperand_hexText, readOperand_lenText]

/-- The form of a line is read back from its mnemonic and operands. -/
theorem readForm_operandsOf (l : AsmLine) : readForm l.instr.mnemonic (operandsOf l) = some l := by
  cases l with
  | extractArgb p => rfl
  | rgbToHsl r g b => rfl
  | brightnessScore p => rfl
  | decodeToRgb w h len => cases len <;> rfl
  | decodeToHsl w h len => cases len <;> rfl

/-- Settles O7: a written line is cut into the parts it was joined from, and each part is read back. -/
theorem assemblerReadsItsOwnLines : Obligations.AssemblerReadsItsOwnLines := by
  intro l
  obtain ⟨hmn, hmnne⟩ := plain_mnemonic l.instr
  have htsne : l.operandTexts ≠ [] := by cases l <;> simp [AsmLine.operandTexts]
  rw [AsmLine.text, readLine_joinCommas hmn hmnne (plain_operandTexts l) htsne, String.ofList_toList,
    mapM_readOperand_operandTexts, Option.bind_some, readForm_operandsOf]

/-- Settles O8 by running the assembler on the worked lines. -/
theorem workedLinesAssemble : Obligations.WorkedLinesAssemble := by
  unfold Obligations.WorkedLinesAssemble
  decide

/-! ### The host's duties (20_memory.md R42, 60_exceptions.md R150) -/

theorem namesSrc_encode (k : FrameKind) (w h len : Word) :
    namesSrc (encode (frameInstr k true w h len)) = true :=
  namesSrc_of_decode (decode_encode (by cases k <;> rfl))

/-- Settles O54: each move is guarded by the duty it has to respect, and a frame command with a buffer freezes SRC. -/
theorem hostMovesRespectTheDuties : Obligations.HostMovesRespectTheDuties := by
  refine ⟨fun c s hm => by simp [hostMove, hm], fun c s hm hp => ?_, fun k w h len idx b s hs => ?_, fun s => ?_⟩
  · exact ⟨{ s with port := some c }, by simp [hostMove, hm, hp], rfl, rfl, ⟨rfl, rfl, rfl⟩⟩
  · have hfrozen : srcFrozen s = true := by
      obtain hp | ⟨hm, hcw⟩ := hs
      · simp [srcFrozen, hp, namesSrc_encode]
      · simp [srcFrozen, hm, hcw, namesSrc_encode]
    simp [hostMove, hfrozen]
  · cases hv : s.respValid <;> simp [hostReadOut, hv]

/-! ### Acceptance and the scalar commands (30_encoding.md R51, R58) -/

/-- After acceptance STATUS shows BUSY and nothing else. -/
theorem statusWord_accept (c : Cmd) (s : State) : statusWord (accept c s) = 1#32 := by
  apply BitVec.eq_of_toNat_eq
  simp [statusWord_toNat, busyBit, codeBits, kindBits]

/-- Settles O11: an IDLE step accepts the command on the port, and without one it is no change. -/
theorem acceptanceLatchesTheCommand : Obligations.AcceptanceLatchesTheCommand := by
  refine ⟨fun s c hm hp => ⟨accept c s, step_of_presented hm hp, rfl, rfl, rfl, statusWord_accept c s, rfl, rfl, rfl, rfl,
    ⟨rfl, rfl, rfl⟩, ⟨rfl, rfl, rfl⟩⟩, fun s hm hp => ?_⟩
  rw [step_of_idle hm, idleStep, hp]

/-- A presented command whose meaning is an OK completion has its response after acceptance and one more step. -/
theorem run_two_of_presented {i : Instr} {r : Res} {s : State} (hwf : i.wellFormed = true) (hp : Presented i s)
    (hexec : ∀ t, exec i t = .next (respondOk r t)) :
    ∃ t, Host.Core.run core 2 s = .next t ∧ Responded { s with cw := encode i } t .ok .noFault r ∧
      t.outKind = .none ∧ t.out = [] ∧ t.src = s.src := by
  refine ⟨respondOk r (accept (encode i) s), ?_, ⟨rfl, rfl, rfl, rfl, rfl, rfl⟩, rfl, rfl, rfl⟩
  have hstep : step (accept (encode i) s) = .next (respondOk r (accept (encode i) s)) :=
    (step_of_decode rfl (by rw [accept_cw, decode_encode hwf])).trans (hexec _)
  rw [run_succ 1 (step_of_presented hp.idle hp.port), run_succ 0 hstep]
  rfl

/-- Settles O26: each scalar command is an OK completion. -/
theorem scalarCommandsRunInTwoSteps : Obligations.ScalarCommandsRunInTwoSteps :=
  ⟨fun _ _ hp => run_two_of_presented rfl hp fun _ => rfl, fun _ _ _ _ hwf hp => run_two_of_presented hwf hp fun _ => rfl,
    fun _ _ hp => run_two_of_presented rfl hp fun _ => rfl⟩

end Sys2Proof.Proofs

namespace Sys2Proof.Proofs

open Sys2Proof Sys2Proof.Machine Sys2Proof.Laws

/-! ### The format (40_colorspace_math.md R70) -/

/-- A finite float is a sign, a 24-bit significand and an exponent, the leading bit set above the least quantum. -/
theorem finite_fin_iff {neg : Bool} {m : Nat} {e : Int} : (Flt.fin neg m e).finite = true ↔
    m < 2 ^ 24 ∧ -149 ≤ e ∧ e ≤ 104 ∧ (2 ^ 23 ≤ m ∨ e = -149) := by
  simp only [Flt.finite, Flt.canonical, Bool.and_eq_true, Bool.or_eq_true, decide_eq_true_eq, and_assoc]
  rfl

/-- A finite float written out. -/
theorem exists_fin_of_finite {a : Flt} (ha : a.finite = true) : ∃ neg m e, a = .fin neg m e := by
  cases a with
  | nan => cases ha
  | inf neg => cases ha
  | fin neg m e => exact ⟨neg, m, e, rfl⟩

/-- A rational with the given sign. -/
def withSign (neg : Bool) (x : ℚ) : ℚ := if neg then -x else x

@[simp] theorem withSign_true (x : ℚ) : withSign true x = -x := rfl
@[simp] theorem withSign_false (x : ℚ) : withSign false x = x := rfl
@[simp] theorem abs_withSign (neg : Bool) (x : ℚ) : |withSign neg x| = |x| := by cases neg <;> simp
@[simp] theorem withSign_eq_zero {neg : Bool} {x : ℚ} : withSign neg x = 0 ↔ x = 0 := by cases neg <;> simp

theorem withSign_mul (s t : Bool) (x y : ℚ) : withSign s x * withSign t y = withSign (s ^^ t) (x * y) := by
  cases s <;> cases t <;> simp

theorem withSign_div (s t : Bool) (x y : ℚ) : withSign s x / withSign t y = withSign (s ^^ t) (x / y) := by
  cases s <;> cases t <;> simp [neg_div, div_neg]

@[simp] theorem val_fin (neg : Bool) (m : Nat) (e : Int) : (Flt.fin neg m e).val = withSign neg (m * 2 ^ e) := rfl

@[simp] theorem val_fneg (a : Flt) : (fneg a).val = -a.val := by
  rcases a with _ | _ | ⟨_ | _, m, e⟩ <;> simp [fneg, Flt.val]

@[simp] theorem finite_fneg (a : Flt) : (fneg a).finite = a.finite := by cases a <;> rfl

@[simp] theorem finite_fzero (neg : Bool) : (fzero neg).finite = true := rfl

@[simp] theorem val_fzero (neg : Bool) : (fzero neg).val = 0 := by simp [fzero]

/-- A finite float of value 0 is a zero of its sign. -/
theorem eq_fzero_of_val {a : Flt} (ha : a.finite = true) (h0 : a.val = 0) : a = fzero a.negative := by
  obtain ⟨s, m, e, rfl⟩ := exists_fin_of_finite ha
  obtain ⟨-, -, -, hlead⟩ := finite_fin_iff.mp ha
  have hm : m = 0 := by simpa [zpow_ne_zero] using h0
  subst hm
  obtain rfl : e = -149 := by omega
  rfl

/-! ### Rounding to nearest even (R70) -/

/-- A power of two as a quotient of natural powers. -/
theorem zpow_mul_pow_toNat (l : Int) : (2 : ℚ) ^ l * 2 ^ (-l).toNat = 2 ^ l.toNat := by
  rw [← zpow_natCast, ← zpow_natCast, ← zpow_add₀ two_ne_zero]
  congr 1
  omega

theorem div_eq_zpow_mul {n d : ℚ} {l : Int} :
    n * 2 ^ (-l).toNat / (d * 2 ^ l.toNat) = n / d / 2 ^ l := by
  rw [← zpow_mul_pow_toNat l]
  field_simp

/-- The binary logarithm of a ratio: `2^l ≤ n / d < 2^(l+1)`. -/
theorem ratioLog2_spec {n d : Nat} (hn : n ≠ 0) (hd : d ≠ 0) :
    (2 : ℚ) ^ ratioLog2 n d ≤ n / d ∧ (n : ℚ) / d < 2 ^ (ratioLog2 n d + 1) := by
  have hd0 : (0 : ℚ) < d := by exact_mod_cast Nat.pos_of_ne_zero hd
  have hnlo : (2 : ℚ) ^ (n.log2 : ℤ) ≤ n := by exact_mod_cast Nat.log2_self_le hn
  have hnhi : (n : ℚ) < 2 ^ ((n.log2 : ℤ) + 1) := by exact_mod_cast Nat.lt_log2_self (n := n)
  have hdlo : (2 : ℚ) ^ (d.log2 : ℤ) ≤ d := by exact_mod_cast Nat.log2_self_le hd
  have hdhi : (d : ℚ) < 2 ^ ((d.log2 : ℤ) + 1) := by exact_mod_cast Nat.lt_log2_self (n := d)
  have hcmp : d * 2 ^ ((n.log2 : ℤ) - d.log2).toNat ≤ n * 2 ^ (-((n.log2 : ℤ) - d.log2)).toNat ↔
      (2 : ℚ) ^ ((n.log2 : ℤ) - d.log2) ≤ n / d := by
    rw [← Nat.cast_le (α := ℚ), ← one_le_div₀ (by positivity)]
    push_cast
    rw [div_eq_zpow_mul, one_le_div₀ (by positivity)]
  unfold ratioLog2
  simp only [hcmp]
  split
  · next h =>
    refine ⟨h, ?_⟩
    calc (n : ℚ) / d < 2 ^ ((n.log2 : ℤ) + 1) / 2 ^ (d.log2 : ℤ) := by gcongr
      _ = 2 ^ ((n.log2 : ℤ) - d.log2 + 1) := by rw [← zpow_sub₀ two_ne_zero]; congr 1; ring
  · next h =>
    refine ⟨?_, by simpa using not_le.mp h⟩
    calc (2 : ℚ) ^ ((n.log2 : ℤ) - d.log2 - 1) = 2 ^ (n.log2 : ℤ) / 2 ^ ((d.log2 : ℤ) + 1) := by
          rw [← zpow_sub₀ two_ne_zero]; congr 1; ring
      _ ≤ n / d := by gcongr

/-- The nearest integer to a ratio is at most a half away, and even when it is exactly a half away. -/
theorem nearestEven_spec (num : Nat) {den : Nat} (hden : den ≠ 0) :
    |(num : ℚ) / den - nearestEven num den| ≤ 1 / 2 ∧
      (|(num : ℚ) / den - nearestEven num den| = 1 / 2 → nearestEven num den % 2 = 0) := by
  have hd0 : (0 : ℚ) < den := by exact_mod_cast Nat.pos_of_ne_zero hden
  have hsplit (N : Nat) : (num : ℚ) / den - N = (num % den : ℕ) / den + (num / den : ℕ) - N := by
    have : (num : ℚ) = den * (num / den : ℕ) + (num % den : ℕ) := by exact_mod_cast (Nat.div_add_mod num den).symm
    rw [this]
    field_simp
    ring
  have hlow : (0 : ℚ) ≤ (num % den : ℕ) / den := by positivity
  have hhigh : ((num % den : ℕ) : ℚ) / den < 1 := by
    rw [div_lt_one hd0]
    exact_mod_cast Nat.mod_lt _ (Nat.pos_of_ne_zero hden)
  rw [hsplit]
  unfold nearestEven
  simp only
  split
  · next h =>
    have hf : ((num % den : ℕ) : ℚ) / den < 1 / 2 := by
      rw [div_lt_div_iff₀ hd0 two_pos]
      exact_mod_cast (by omega : num % den * 2 < 1 * den)
    rw [add_sub_cancel_right, abs_of_nonneg hlow]
    exact ⟨hf.le, fun h => absurd h hf.ne⟩
  split
  · next h =>
    have hf : 1 / 2 < ((num % den : ℕ) : ℚ) / den := by
      rw [div_lt_div_iff₀ two_pos hd0]
      exact_mod_cast (by omega : 1 * den < num % den * 2)
    rw [Nat.cast_succ, abs_of_neg (by linarith)]
    exact ⟨by linarith, fun h => by linarith⟩
  · have hf : ((num % den : ℕ) : ℚ) / den = 1 / 2 := by
      rw [div_eq_div_iff hd0.ne' two_ne_zero]
      exact_mod_cast (by omega : num % den * 2 = 1 * den)
    rw [hf]
    rcases Nat.mod_two_eq_zero_or_one (num / den) with h | h
    · rw [h, Nat.add_zero, add_sub_cancel_right]
      exact ⟨by norm_num, fun _ => h⟩
    · rw [h, Nat.cast_succ, show (1 : ℚ) / 2 + (num / den : ℕ) - ((num / den : ℕ) + 1) = -(1 / 2) by ring]
      exact ⟨by norm_num, fun _ => by omega⟩

/-- `N * 2^q` is the positive `X` rounded to the quantum `2^q` that `X` has in the format, ties to even. -/
structure IsRounded (X : ℚ) (N : Nat) (q : Int) : Prop where
  minExp : -149 ≤ q
  lt : X < 2 ^ 24 * 2 ^ q
  normal : q = -149 ∨ 2 ^ 23 * 2 ^ q ≤ X
  near : |X - N * 2 ^ q| ≤ 2 ^ q / 2
  tie : |X - N * 2 ^ q| = 2 ^ q / 2 → N % 2 = 0

/-- `roundFlt` packs the significand of the rounded ratio. -/
theorem exists_isRounded_of_roundFlt (neg : Bool) {n d : Nat} (e : Int) (hn : n ≠ 0) (hd : d ≠ 0) :
    ∃ N q, IsRounded (n / d * 2 ^ e) N q ∧ roundFlt neg n d e = packFlt neg N q := by
  set q := quantumOf n d e with hq
  set num := n * 2 ^ (e - q).toNat
  set den := d * 2 ^ (q - e).toNat
  have hquantum : q = max (e + ratioLog2 n d - 23) (-149) := hq
  obtain ⟨hlog, hlog'⟩ := ratioLog2_spec hn hd
  have hpow : (0 : ℚ) < 2 ^ e := by positivity
  have hqpow : (0 : ℚ) < 2 ^ q := by positivity
  have hratio : (num : ℚ) / den = n / d * 2 ^ e / 2 ^ q := by
    have := div_eq_zpow_mul (n := n) (d := d) (l := q - e)
    rw [neg_sub] at this
    push_cast [num, den]
    rw [this, zpow_sub₀ two_ne_zero]
    field_simp
  have hdist : |(n : ℚ) / d * 2 ^ e - nearestEven num den * 2 ^ q| =
      |(num : ℚ) / den - nearestEven num den| * 2 ^ q := by
    rw [hratio, ← abs_of_pos hqpow, ← abs_mul, abs_of_pos hqpow]
    congr 1
    field_simp
  obtain ⟨hnear, htie⟩ := nearestEven_spec num (den := den) (by positivity)
  refine ⟨nearestEven num den, q, ⟨by omega, ?_, ?_, ?_, fun h => htie ?_⟩, by simp only [roundFlt, hn, if_false]; rfl⟩
  · calc (n : ℚ) / d * 2 ^ e < 2 ^ (ratioLog2 n d + 1) * 2 ^ e := by gcongr
      _ = 2 ^ (ratioLog2 n d + 1 + e) := (zpow_add₀ two_ne_zero _ _).symm
      _ ≤ 2 ^ (24 + q) := zpow_le_zpow_right₀ one_le_two (by omega)
      _ = 2 ^ 24 * 2 ^ q := zpow_add₀ two_ne_zero _ _
  · rcases le_total (e + ratioLog2 n d - 23) (-149) with h | h
    · exact .inl (by omega)
    · right
      calc (2 : ℚ) ^ 23 * 2 ^ q = 2 ^ (23 + q) := (zpow_add₀ two_ne_zero _ _).symm
        _ = 2 ^ (ratioLog2 n d + e) := by congr 1; omega
        _ = 2 ^ ratioLog2 n d * 2 ^ e := zpow_add₀ two_ne_zero _ _
        _ ≤ n / d * 2 ^ e := by gcongr
  · rw [hdist]
    linarith [mul_le_mul_of_nonneg_right hnear hqpow.le]
  · rw [hdist] at h
    exact mul_right_cancel₀ hqpow.ne' (h.trans (by ring))

namespace IsRounded

variable {X : ℚ} {N N' : Nat} {q q' : Int}

/-- Rounding does not leave the significands of the quantum, up to a carry. -/
theorem significand (h : IsRounded X N q) : N ≤ 2 ^ 24 ∧ (q = -149 ∨ 2 ^ 23 ≤ N) := by
  have hpow : (0 : ℚ) < 2 ^ q := by positivity
  obtain ⟨hlo, hhi⟩ := abs_le.mp h.near
  constructor
  · have : (N : ℚ) * 2 ^ q < (2 ^ 24 + 1 : ℕ) * 2 ^ q := by push_cast; linarith [h.lt]
    exact Nat.lt_succ_iff.mp (by exact_mod_cast lt_of_mul_lt_mul_right this hpow.le)
  · refine h.normal.imp_right fun hn => ?_
    have : ((2 ^ 23 : ℕ) : ℚ) * 2 ^ q < (N + 1 : ℕ) * 2 ^ q := by push_cast; linarith
    exact Nat.lt_succ_iff.mp (by exact_mod_cast lt_of_mul_lt_mul_right this hpow.le)

theorem quantum_le (h : IsRounded X N q) (h' : IsRounded X N' q') : q' ≤ q := by
  by_contra! hlt
  have hn := h'.normal.resolve_left (by have := h.minExp; omega)
  have : (2 : ℚ) ^ 24 * 2 ^ q ≤ 2 ^ 23 * 2 ^ q' := by
    calc (2 : ℚ) ^ 24 * 2 ^ q = 2 ^ 23 * 2 ^ (q + 1) := by rw [zpow_add_one₀ two_ne_zero]; ring
      _ ≤ 2 ^ 23 * 2 ^ q' := by gcongr <;> [norm_num; omega]
  linarith [h.lt]

/-- Two integers at most a half away from the same number are equal when the even one is taken. -/
theorem significand_le (h : IsRounded X N q) (h' : IsRounded X N' q) : N' ≤ N := by
  by_contra! hlt
  have hpow : (0 : ℚ) < 2 ^ q := by positivity
  have hstep : ((N : ℚ) + 1) * 2 ^ q ≤ N' * 2 ^ q := by gcongr; exact_mod_cast hlt
  obtain ⟨-, hhi⟩ := abs_le.mp h.near
  obtain ⟨hlo, -⟩ := abs_le.mp h'.near
  have hN : X - N * 2 ^ q = 2 ^ q / 2 := by linarith
  have hN' : X - N' * 2 ^ q = -(2 ^ q / 2) := by linarith
  have hsucc : (N' : ℚ) = N + 1 := mul_right_cancel₀ hpow.ne' (by linarith)
  have heven := h.tie (by rw [hN, abs_of_pos (by positivity)])
  have heven' := h'.tie (by rw [hN', abs_neg, abs_of_pos (by positivity)])
  have : N' = N + 1 := by exact_mod_cast hsucc
  omega

theorem unique (h : IsRounded X N q) (h' : IsRounded X N' q') : N = N' ∧ q = q' := by
  obtain rfl : q = q' := le_antisymm (h'.quantum_le h) (h.quantum_le h')
  exact ⟨le_antisymm (h'.significand_le h) (h.significand_le h'), rfl⟩

/-- No multiple of the quantum is nearer, and on a tie the significand is even. -/
theorem nearest_multiple (h : IsRounded X N q) (K : Int) :
    |X - N * 2 ^ q| ≤ |X - K * 2 ^ q| ∧
      (|X - N * 2 ^ q| = |X - K * 2 ^ q| → (K : ℚ) * 2 ^ q ≠ N * 2 ^ q → N % 2 = 0) := by
  have hpow : (0 : ℚ) < 2 ^ q := by positivity
  rcases eq_or_ne K N with rfl | hK
  · simp
  have hfar : (2 : ℚ) ^ q ≤ |X - K * 2 ^ q| + |X - N * 2 ^ q| := by
    calc (2 : ℚ) ^ q = 1 * 2 ^ q := (one_mul _).symm
      _ ≤ |(K : ℚ) - N| * 2 ^ q := by gcongr; exact_mod_cast Int.one_le_abs (sub_ne_zero.mpr hK)
      _ = |(X - N * 2 ^ q) - (X - K * 2 ^ q)| := by rw [← abs_of_pos hpow, ← abs_mul, abs_of_pos hpow]; congr 1; ring
      _ ≤ _ := by rw [add_comm]; exact abs_sub _ _
  have hnear := h.near
  exact ⟨by linarith, fun heq _ => h.tie (by linarith)⟩

end IsRounded

/-- Packing, by the carry out of the significand and by the overflow. -/
theorem packFlt_eq (neg : Bool) (N : Nat) (q : Int) : packFlt neg N q =
    if N = 2 ^ 24 then (if 104 < q + 1 then .inf neg else .fin neg (2 ^ 23) (q + 1))
    else if 104 < q then .inf neg else .fin neg N q := by
  have hdef : packFlt neg N q =
      if 104 < (if N = 2 ^ 24 then q + 1 else q) then .inf neg
      else .fin neg (if N = 2 ^ 24 then 2 ^ 23 else N) (if N = 2 ^ 24 then q + 1 else q) := rfl
  rw [hdef]
  by_cases htop : N = 2 ^ 24
  · simp only [htop, if_true]
  · simp only [htop, if_false]

/-- A finite float is a multiple of a quantum, or below the normal significands of it. -/
theorem multiple_or_lt_of_finite {z : Flt} (hz : z.finite = true) (q : Int) :
    (∃ K : Int, z.val = K * 2 ^ q) ∨ (|z.val| < 2 ^ 23 * 2 ^ q ∧ -149 < q) := by
  obtain ⟨s, m, f, rfl⟩ := exists_fin_of_finite hz
  obtain ⟨hm, hf, -, -⟩ := finite_fin_iff.mp hz
  rcases le_or_gt q f with hq | hq
  · left
    have hpow : (2 : ℚ) ^ f = 2 ^ (f - q).toNat * 2 ^ q := by
      rw [← zpow_natCast, ← zpow_add₀ two_ne_zero]
      congr 1
      omega
    refine ⟨if s then -(m * 2 ^ (f - q).toNat) else m * 2 ^ (f - q).toNat, ?_⟩
    cases s <;> simp [hpow, mul_assoc]
  · refine .inr ⟨?_, by omega⟩
    rw [val_fin, abs_withSign, abs_of_nonneg (by positivity)]
    calc (m : ℚ) * 2 ^ f < 2 ^ 24 * 2 ^ f := by gcongr; exact_mod_cast hm
      _ = 2 ^ 23 * 2 ^ (f + 1) := by rw [zpow_add_one₀ two_ne_zero]; ring
      _ ≤ 2 ^ 23 * 2 ^ q := by gcongr <;> [norm_num; omega]

namespace IsRounded

variable {X : ℚ} {N : Nat} {q : Int}

/-- No finite float is nearer than the rounded value, and on a tie its significand is even. -/
theorem nearest_finite (h : IsRounded X N q) {z : Flt} (hz : z.finite = true) :
    |X - N * 2 ^ q| ≤ |X - z.val| ∧ (|X - N * 2 ^ q| = |X - z.val| → z.val ≠ N * 2 ^ q → N % 2 = 0) := by
  obtain ⟨K, hK⟩ | ⟨hlt, hq⟩ := multiple_or_lt_of_finite hz q
  · rw [hK]
    exact h.nearest_multiple K
  · have hX := h.normal.resolve_left (by omega)
    have hbin := (h.nearest_multiple (2 ^ 23)).1
    rw [Int.cast_pow, Int.cast_ofNat] at hbin
    have hstrict : |X - 2 ^ 23 * 2 ^ q| < |X - z.val| := by
      obtain ⟨-, hz'⟩ := abs_lt.mp hlt
      rw [abs_of_nonneg (by linarith), abs_of_pos (by linarith)]
      linarith
    exact ⟨by linarith, fun heq _ => by linarith⟩

/-- A rounded value is beyond the greatest finite float exactly from halfway past it. -/
theorem overflowAt_le_iff (h : IsRounded X N q) : overflowAt ≤ X ↔ 104 < q ∨ (q = 104 ∧ N = 2 ^ 24) := by
  obtain ⟨hN, hlead⟩ := h.significand
  obtain ⟨hlo, hhi⟩ := abs_le.mp h.near
  unfold overflowAt
  have hhalf : ((2 : ℚ) ^ 25 - 1) * 2 ^ (103 : ℤ) = (2 ^ 24 - 1 / 2) * 2 ^ (104 : ℤ) := by norm_num
  rw [hhalf]
  rcases lt_trichotomy q 104 with hq | rfl | hq
  · have : X < 2 ^ 24 * 2 ^ (103 : ℤ) := h.lt.trans_le (by gcongr <;> [norm_num; omega])
    have : (2 : ℚ) ^ 24 * 2 ^ (103 : ℤ) ≤ (2 ^ 24 - 1 / 2) * 2 ^ (104 : ℤ) := by norm_num
    exact ⟨fun _ => by linarith, fun _ => by omega⟩
  · constructor
    · intro hX
      refine .inr ⟨rfl, le_antisymm hN ?_⟩
      by_contra! hlt
      have hpow : (0 : ℚ) < 2 ^ (104 : ℤ) := by positivity
      have hle : (N : ℚ) * 2 ^ (104 : ℤ) ≤ (2 ^ 24 - 1) * 2 ^ (104 : ℤ) := by
        gcongr
        have : (N : ℚ) + 1 ≤ 2 ^ 24 := by exact_mod_cast hlt
        linarith
      have heven := h.tie (by rw [abs_of_nonneg] <;> linarith)
      have htop : (N : ℚ) = 2 ^ 24 - 1 := mul_right_cancel₀ hpow.ne' (by linarith)
      have : N = 2 ^ 24 - 1 := by exact_mod_cast (show (N : ℚ) = ((2 ^ 24 - 1 : ℕ) : ℚ) by rw [htop]; norm_num)
      omega
    · rintro (h104 | ⟨-, rfl⟩)
      · exact absurd h104 (lt_irrefl _)
      · push_cast at hlo
        linarith
  · have hX := h.normal.resolve_left (by omega)
    have : (2 : ℚ) ^ 23 * 2 ^ (105 : ℤ) ≤ 2 ^ 23 * 2 ^ q := by gcongr <;> [norm_num; omega]
    have : (2 ^ 24 - 1 / 2) * (2 : ℚ) ^ (104 : ℤ) ≤ 2 ^ 23 * 2 ^ (105 : ℤ) := by norm_num
    exact ⟨fun _ => .inl hq, fun _ => by linarith⟩

/-- Packing keeps the rounded value, its sign and its parity below the overflow. -/
theorem packFlt_finite (h : IsRounded X N q) (neg : Bool) (hX : X < overflowAt) :
    ∃ m e, packFlt neg N q = .fin neg m e ∧ (Flt.fin neg m e).finite = true ∧ (m : ℚ) * 2 ^ e = N * 2 ^ q ∧
      (N % 2 = 0 → m % 2 = 0) := by
  obtain ⟨hN, hlead⟩ := h.significand
  have hq := h.minExp
  have hover := (not_congr h.overflowAt_le_iff).mp (not_le.mpr hX)
  by_cases htop : N = 2 ^ 24
  · refine ⟨2 ^ 23, q + 1, ?_, finite_fin_iff.mpr ⟨by norm_num, by omega, by omega, .inl le_rfl⟩, ?_,
      fun _ => by norm_num⟩
    · rw [packFlt_eq, if_pos htop, if_neg (by omega)]
    · rw [htop, zpow_add_one₀ two_ne_zero]
      push_cast
      ring
  · refine ⟨N, q, ?_, finite_fin_iff.mpr ⟨by omega, hq, by omega, hlead.symm⟩, rfl, id⟩
    rw [packFlt_eq, if_neg htop, if_neg (by omega)]

/-- Packing overflows to an infinity of the sign. -/
theorem packFlt_overflow (h : IsRounded X N q) (neg : Bool) (hX : overflowAt ≤ X) : packFlt neg N q = .inf neg := by
  have hover := h.overflowAt_le_iff.mp hX
  rw [packFlt_eq]
  split
  · exact if_pos (by omega)
  · exact if_pos (by omega)

end IsRounded


/-- `roundFlt` depends on the ratio alone. -/
theorem roundFlt_congr (neg : Bool) {n d n' d' : Nat} {e e' : Int} (hn : n ≠ 0) (hd : d ≠ 0) (hn' : n' ≠ 0)
    (hd' : d' ≠ 0) (h : (n : ℚ) / d * 2 ^ e = n' / d' * 2 ^ e') : roundFlt neg n d e = roundFlt neg n' d' e' := by
  obtain ⟨N, q, hr, heq⟩ := exists_isRounded_of_roundFlt neg e hn hd
  obtain ⟨N', q', hr', heq'⟩ := exists_isRounded_of_roundFlt neg e' hn' hd'
  rw [← h] at hr'
  obtain ⟨rfl, rfl⟩ := hr.unique hr'
  rw [heq, heq']

/-! ### The nearest float of a rational -/

theorem fneg_fzero (neg : Bool) : fneg (fzero neg) = fzero (!neg) := rfl

theorem packFlt_not (neg : Bool) (N : Nat) (q : Int) : packFlt (!neg) N q = fneg (packFlt neg N q) := by
  simp only [packFlt_eq, apply_ite fneg]
  rfl

theorem roundFlt_not (neg : Bool) (n d : Nat) (e : Int) : roundFlt (!neg) n d e = fneg (roundFlt neg n d e) := by
  simp only [roundFlt, packFlt_not, ← fneg_fzero, apply_ite fneg]

theorem roundFlt_zero (neg : Bool) (d : Nat) (e : Int) : roundFlt neg 0 d e = fzero neg := rfl

/-- The float the operations of R71 give for an exact result `x`, `+0.0` for 0. -/
def nearestFlt (x : ℚ) : Flt := roundFlt (decide (x < 0)) x.num.natAbs x.den 0

theorem nearestFlt_neg {x : ℚ} (hx : x ≠ 0) : nearestFlt (-x) = fneg (nearestFlt x) := by
  have hsign : decide (-x < 0) = !decide (x < 0) := by
    rcases lt_or_gt_of_ne hx with h | h
    · simp [h, h.le]
    · simp [h, h.le]
  rw [nearestFlt, nearestFlt, hsign, Rat.num_neg_eq_neg_num, Int.natAbs_neg, Rat.den_neg_eq_den, roundFlt_not]

theorem roundFlt_false_eq_nearestFlt {n d : Nat} (e : Int) (hn : n ≠ 0) (hd : d ≠ 0) :
    roundFlt false n d e = nearestFlt (n / d * 2 ^ e) := by
  set x : ℚ := n / d * 2 ^ e with hx
  have hpos : 0 < x := by positivity
  rw [nearestFlt, decide_eq_false hpos.not_gt]
  refine roundFlt_congr false hn hd (Int.natAbs_ne_zero.mpr (Rat.num_ne_zero.mpr hpos.ne')) x.den_ne_zero ?_
  rw [← hx, Nat.cast_natAbs, abs_of_pos (Rat.num_pos.mpr hpos), zpow_zero, mul_one, Rat.num_div_den]

/-- Rounding a ratio is rounding its value. -/
theorem roundFlt_eq_nearestFlt (neg : Bool) {n d : Nat} (e : Int) (hn : n ≠ 0) (hd : d ≠ 0) :
    roundFlt neg n d e = nearestFlt (withSign neg (n / d * 2 ^ e)) := by
  cases neg with
  | false => exact roundFlt_false_eq_nearestFlt e hn hd
  | true =>
    have hx : (n : ℚ) / d * 2 ^ e ≠ 0 := by positivity
    rw [withSign_true, nearestFlt_neg hx, ← roundFlt_false_eq_nearestFlt e hn hd, ← roundFlt_not, Bool.not_false]

theorem isNearest_neg {x : ℚ} {y : Flt} (h : IsNearest x y) : IsNearest (-x) (fneg y) := by
  rcases h with ⟨hx, hy, hz⟩ | ⟨hx, rfl⟩ | ⟨hx, rfl⟩
  · refine .inl ⟨by rwa [abs_neg], by rwa [finite_fneg], fun z hzf => ?_⟩
    obtain ⟨hle, htie⟩ := hz (fneg z) (by rwa [finite_fneg])
    have hdist (w : ℚ) : |-x - w| = |x - -w| := by rw [← abs_neg]; congr 1; ring
    rw [val_fneg] at hle htie ⊢
    rw [hdist, hdist, neg_neg]
    refine ⟨hle, fun heq hne => ?_⟩
    have heven := htie heq (fun h => hne (by rw [← h, neg_neg]))
    obtain ⟨s, m, e, rfl⟩ := exists_fin_of_finite hy
    exact heven
  · exact .inr (.inr ⟨neg_le_neg hx, rfl⟩)
  · exact .inr (.inl ⟨by linarith, rfl⟩)

theorem overflowAt_pos : 0 < overflowAt := by norm_num [overflowAt]

theorem isNearest_fzero (neg : Bool) : IsNearest 0 (fzero neg) :=
  .inl ⟨by simpa using overflowAt_pos, rfl, fun z _ => ⟨by simp, fun _ _ => rfl⟩⟩

theorem isNearest_roundFlt {n d : Nat} (e : Int) (hn : n ≠ 0) (hd : d ≠ 0) :
    IsNearest (n / d * 2 ^ e) (roundFlt false n d e) := by
  obtain ⟨N, q, hr, heq⟩ := exists_isRounded_of_roundFlt false e hn hd
  rw [heq]
  have hpos : (0 : ℚ) < n / d * 2 ^ e := by positivity
  rcases lt_or_ge ((n : ℚ) / d * 2 ^ e) overflowAt with hX | hX
  · obtain ⟨m, f, hpack, hfin, hval, hpar⟩ := hr.packFlt_finite false hX
    rw [hpack]
    refine .inl ⟨by rwa [abs_of_pos hpos], hfin, fun z hz => ?_⟩
    rw [val_fin, withSign_false, hval]
    obtain ⟨hle, htie⟩ := hr.nearest_finite hz
    exact ⟨hle, fun h hne => hpar (htie h hne)⟩
  · exact .inr (.inl ⟨hX, hr.packFlt_overflow false hX⟩)

/-- The nearest float is nearest (R70). -/
theorem isNearest_nearestFlt (x : ℚ) : IsNearest x (nearestFlt x) := by
  have hpos {y : ℚ} (hy : 0 < y) : IsNearest y (nearestFlt y) := by
    have h := isNearest_roundFlt (n := y.num.natAbs) (d := y.den) 0
      (Int.natAbs_ne_zero.mpr (Rat.num_ne_zero.mpr hy.ne')) y.den_ne_zero
    rwa [Nat.cast_natAbs, abs_of_pos (Rat.num_pos.mpr hy), zpow_zero, mul_one, Rat.num_div_den,
      ← decide_eq_false hy.not_gt] at h
  rcases lt_trichotomy x 0 with hx | rfl | hx
  · have h := isNearest_neg (hpos (neg_pos.mpr hx))
    rwa [neg_neg, ← nearestFlt_neg (neg_ne_zero.mpr hx.ne), neg_neg] at h
  · exact isNearest_fzero false
  · exact hpos hx

/-! ### The operations on finite floats (R71) -/

/-- A float as a multiple of a smaller quantum. -/
theorem signedAt_mul (s : Bool) (m : Nat) {em e : Int} (h : e ≤ em) :
    (signedAt s m em e : ℚ) * 2 ^ e = withSign s (m * 2 ^ em) := by
  have hpow : (2 : ℚ) ^ em = 2 ^ (em - e).toNat * 2 ^ e := by
    rw [← zpow_natCast, ← zpow_add₀ two_ne_zero]
    congr 1
    omega
  cases s <;> simp [signedAt, hpow, mul_assoc]

section finite

variable {a b : Flt} (ha : a.finite = true) (hb : b.finite = true)
include ha hb

theorem fadd_eq : fadd a b =
    if a.val + b.val = 0 then fzero (a.negative && b.negative) else nearestFlt (a.val + b.val) := by
  obtain ⟨sa, ma, ea, rfl⟩ := exists_fin_of_finite ha
  obtain ⟨sb, mb, eb, rfl⟩ := exists_fin_of_finite hb
  set e := min ea eb with he
  set z := signedAt sa ma ea e + signedAt sb mb eb e with hz
  have hpow : (0 : ℚ) < 2 ^ e := by positivity
  have hval : (Flt.fin sa ma ea).val + (Flt.fin sb mb eb).val = z * 2 ^ e := by
    rw [val_fin, val_fin, ← signedAt_mul sa ma (min_le_left ea eb), ← signedAt_mul sb mb (min_le_right ea eb), hz]
    push_cast
    ring
  have hdef : fadd (.fin sa ma ea) (.fin sb mb eb) =
      if z = 0 then fzero (sa && sb) else roundFlt (decide (z < 0)) z.natAbs 1 e := rfl
  rw [hdef, hval]
  by_cases h0 : z = 0
  · simp [h0, Flt.negative]
  · rw [if_neg h0, if_neg (by simp [h0, hpow.ne']),
      roundFlt_eq_nearestFlt _ e (Int.natAbs_ne_zero.mpr h0) one_ne_zero]
    congr 1
    rcases lt_or_gt_of_ne h0 with hneg | hneg
    · rw [decide_eq_true hneg, withSign_true, Nat.cast_natAbs, abs_of_neg hneg]
      push_cast
      ring
    · rw [decide_eq_false hneg.not_gt, withSign_false, Nat.cast_natAbs, abs_of_pos hneg]
      push_cast
      ring

theorem fsub_eq : fsub a b =
    if a.val - b.val = 0 then fzero (a.negative && !b.negative) else nearestFlt (a.val - b.val) := by
  have hneg : (fneg b).negative = !b.negative := by
    obtain ⟨sb, mb, eb, rfl⟩ := exists_fin_of_finite hb
    rfl
  rw [fsub, fadd_eq ha (by rwa [finite_fneg]), val_fneg, hneg, sub_eq_add_neg]

theorem fmul_eq : fmul a b =
    if a.val * b.val = 0 then fzero (a.negative ^^ b.negative) else nearestFlt (a.val * b.val) := by
  obtain ⟨sa, ma, ea, rfl⟩ := exists_fin_of_finite ha
  obtain ⟨sb, mb, eb, rfl⟩ := exists_fin_of_finite hb
  have hdef : fmul (.fin sa ma ea) (.fin sb mb eb) = roundFlt (sa ^^ sb) (ma * mb) 1 (ea + eb) := rfl
  have hval : (Flt.fin sa ma ea).val * (Flt.fin sb mb eb).val =
      withSign (sa ^^ sb) ((ma * mb : ℕ) / (1 : ℕ) * 2 ^ (ea + eb)) := by
    rw [val_fin, val_fin, withSign_mul, zpow_add₀ two_ne_zero]
    push_cast
    congr 1
    ring
  rw [hdef, hval]
  by_cases h0 : ma * mb = 0
  · rw [h0, roundFlt_zero]
    simp [Flt.negative]
  · rw [if_neg (by simpa [zpow_ne_zero] using h0), roundFlt_eq_nearestFlt _ _ h0 one_ne_zero]

theorem fdiv_eq (hb0 : b.val ≠ 0) : fdiv a b =
    if a.val = 0 then fzero (a.negative ^^ b.negative) else nearestFlt (a.val / b.val) := by
  obtain ⟨sa, ma, ea, rfl⟩ := exists_fin_of_finite ha
  obtain ⟨sb, mb, eb, rfl⟩ := exists_fin_of_finite hb
  have hmb : mb ≠ 0 := by rintro rfl; simp at hb0
  have hdef : fdiv (.fin sa ma ea) (.fin sb mb eb) = roundFlt (sa ^^ sb) ma mb (ea - eb) := if_neg hmb
  have hval : (Flt.fin sa ma ea).val / (Flt.fin sb mb eb).val = withSign (sa ^^ sb) (ma / mb * 2 ^ (ea - eb)) := by
    rw [val_fin, val_fin, withSign_div, zpow_sub₀ two_ne_zero]
    congr 1
    field_simp
  rw [hdef, hval]
  by_cases h0 : ma = 0
  · rw [h0, roundFlt_zero]
    simp [Flt.negative]
  · rw [if_neg (by simp [h0, zpow_ne_zero]), roundFlt_eq_nearestFlt _ _ h0 hmb]

end finite

/-- Settles O27: each operation gives the nearest float of the exact result, and a zero of some sign for 0. -/
theorem floatOperationsRoundToNearestEven : Obligations.FloatOperationsRoundToNearestEven := by
  have hzero {x : ℚ} {s : Bool} : IsNearest x (if x = 0 then fzero s else nearestFlt x) := by
    split
    · next h => exact h ▸ isNearest_fzero s
    · exact isNearest_nearestFlt x
  intro a b ha hb
  refine ⟨fadd_eq ha hb ▸ hzero, fsub_eq ha hb ▸ hzero, fmul_eq ha hb ▸ hzero, fun hb0 => ?_⟩
  have hiff : a.val = 0 ↔ a.val / b.val = 0 := by simp [hb0]
  simp only [fdiv_eq ha hb hb0, hiff]
  exact hzero

end Sys2Proof.Proofs

namespace Sys2Proof.Proofs

open Sys2Proof Sys2Proof.Machine Sys2Proof.Laws

/-! ### Representable values -/

/-- A rational that is the value of a finite float. -/
def Representable (x : ℚ) : Prop := ∃ z : Flt, z.finite = true ∧ z.val = x

theorem representable_val {a : Flt} (ha : a.finite = true) : Representable a.val := ⟨a, ha, rfl⟩

theorem Representable.neg {x : ℚ} : Representable x → Representable (-x)
  | ⟨z, hz, hx⟩ => ⟨fneg z, by rwa [finite_fneg], by rw [val_fneg, hx]⟩

/-- The value of every 24-bit significand at every exponent of the format is representable: the leading bit is shifted
up as far as the least quantum allows. -/
theorem representable_nat_mul {m : Nat} {e : Int} (hm : m < 2 ^ 24) (he : -149 ≤ e) (he' : e ≤ 104) :
    Representable (m * 2 ^ e) := by
  rcases eq_or_ne m 0 with rfl | h0
  · exact ⟨fzero false, rfl, by simp⟩
  have hlog : m.log2 < 24 := (Nat.log2_lt h0).mpr hm
  set s := min (23 - m.log2) (e + 149).toNat with hs
  have hhi : m * 2 ^ s < 2 ^ 24 := by
    calc m * 2 ^ s < 2 ^ (m.log2 + 1) * 2 ^ s := by gcongr; exact Nat.lt_log2_self
      _ = 2 ^ (m.log2 + 1 + s) := (pow_add _ _ _).symm
      _ ≤ 2 ^ 24 := Nat.pow_le_pow_right two_pos (by omega)
  have hlead : 2 ^ 23 ≤ m * 2 ^ s ∨ e - s = -149 := by
    rcases le_total (23 - m.log2) (e + 149).toNat with h | h
    · left
      calc 2 ^ 23 = 2 ^ m.log2 * 2 ^ s := by rw [← pow_add]; congr 1; omega
        _ ≤ m * 2 ^ s := by gcongr; exact Nat.log2_self_le h0
    · exact .inr (by omega)
  refine ⟨.fin false (m * 2 ^ s) (e - s), finite_fin_iff.mpr ⟨hhi, by omega, by omega, hlead⟩, ?_⟩
  rw [val_fin, withSign_false, zpow_sub₀ two_ne_zero, zpow_natCast]
  push_cast
  field_simp

/-- An integer multiple of `2^-j` with a 24-bit significand. -/
theorem representable_div_pow {m j : Nat} (hm : m < 2 ^ 24) (hj : j ≤ 149) : Representable (m / 2 ^ j) := by
  have h := representable_nat_mul (e := -j) hm (by omega) (by omega)
  rwa [zpow_neg, zpow_natCast, ← div_eq_mul_inv] at h

theorem representable_natCast {n : Nat} (hn : n < 2 ^ 24) : Representable n := by
  simpa using representable_div_pow (j := 0) hn (by omega)

/-- No finite float is as far out as the overflow. -/
theorem Representable.abs_lt_overflowAt {x : ℚ} : Representable x → |x| < overflowAt := by
  rintro ⟨z, hz, rfl⟩
  obtain ⟨s, m, e, rfl⟩ := exists_fin_of_finite hz
  obtain ⟨hm, -, he, -⟩ := finite_fin_iff.mp hz
  have hm' : (m : ℚ) ≤ 2 ^ 24 - 1 := by
    have : (m : ℚ) + 1 ≤ 2 ^ 24 := by exact_mod_cast hm
    linarith
  rw [val_fin, abs_withSign, abs_of_nonneg (by positivity)]
  calc (m : ℚ) * 2 ^ e ≤ (2 ^ 24 - 1) * 2 ^ (104 : ℤ) := by gcongr; norm_num
    _ < overflowAt := by norm_num [overflowAt]

/-! ### The value of the nearest float -/

/-- The value that an exact result is rounded to. -/
def rnd (x : ℚ) : ℚ := (nearestFlt x).val

theorem rnd_zero : rnd 0 = 0 := val_fzero false

/-- Within the range of the format the nearest float is finite. -/
theorem finite_nearestFlt {x : ℚ} (hx : |x| < overflowAt) : (nearestFlt x).finite = true := by
  obtain ⟨hlo, hhi⟩ := abs_lt.mp hx
  rcases isNearest_nearestFlt x with ⟨-, h, -⟩ | ⟨h, -⟩ | ⟨h, -⟩
  · exact h
  · linarith
  · linarith

/-- No representable value is nearer than the rounded one. -/
theorem abs_sub_rnd_le {x z : ℚ} (hx : |x| < overflowAt) (hz : Representable z) : |x - rnd x| ≤ |x - z| := by
  obtain ⟨w, hw, rfl⟩ := hz
  obtain ⟨hlo, hhi⟩ := abs_lt.mp hx
  rcases isNearest_nearestFlt x with ⟨-, -, h⟩ | ⟨h, -⟩ | ⟨h, -⟩
  · exact (h w hw).1
  · linarith
  · linarith

/-- A representable result is exact. -/
theorem rnd_of_representable {x : ℚ} (hx : Representable x) : rnd x = x := by
  have h := abs_sub_rnd_le hx.abs_lt_overflowAt hx
  rw [sub_self, abs_zero, abs_nonpos_iff, sub_eq_zero] at h
  exact h.symm

/-- Rounding is monotone. -/
theorem rnd_mono {x y : ℚ} (hx : |x| < overflowAt) (hy : |y| < overflowAt) (h : x ≤ y) : rnd x ≤ rnd y := by
  by_contra! hlt
  have hxy := abs_sub_rnd_le hx (representable_val (finite_nearestFlt hy))
  have hyx := abs_sub_rnd_le hy (representable_val (finite_nearestFlt hx))
  rw [← rnd] at hxy hyx
  have hne : x ≠ y := by rintro rfl; exact lt_irrefl _ hlt
  have hmid : rnd y + rnd x ≤ 2 * x := by
    by_contra! hlt'
    have : |x - rnd y| < |x - rnd x| := sq_lt_sq.mp (by nlinarith)
    linarith
  have hmid' : 2 * y ≤ rnd y + rnd x := by
    by_contra! hlt'
    have : |y - rnd x| < |y - rnd y| := sq_lt_sq.mp (by nlinarith)
    linarith
  exact hne (by linarith)

/-- A rounded result stays between representable bounds. -/
theorem rnd_between {x lo hi : ℚ} (hlo : Representable lo) (hhi : Representable hi) (h : lo ≤ x) (h' : x ≤ hi) :
    |x| < overflowAt ∧ lo ≤ rnd x ∧ rnd x ≤ hi := by
  have hx : |x| < overflowAt := by
    obtain ⟨hl, -⟩ := abs_lt.mp hlo.abs_lt_overflowAt
    obtain ⟨-, hh⟩ := abs_lt.mp hhi.abs_lt_overflowAt
    exact abs_lt.mpr ⟨by linarith, by linarith⟩
  exact ⟨hx, rnd_of_representable hlo ▸ rnd_mono hlo.abs_lt_overflowAt hx h,
    rnd_of_representable hhi ▸ rnd_mono hx hhi.abs_lt_overflowAt h'⟩

/-! ### The values of the operations -/

theorem i2f_eq_nearestFlt (n : Nat) : i2f n = nearestFlt n := by
  rcases eq_or_ne n 0 with rfl | hn
  · rfl
  · rw [i2f, roundFlt_false_eq_nearestFlt 0 hn one_ne_zero]
    simp

theorem val_i2f {n : Nat} (hn : n < 2 ^ 24) : (i2f n).val = n := by
  rw [i2f_eq_nearestFlt]
  exact rnd_of_representable (representable_natCast hn)

theorem finite_i2f {n : Nat} (hn : n < 2 ^ 24) : (i2f n).finite = true := by
  rw [i2f_eq_nearestFlt]
  exact finite_nearestFlt (representable_natCast hn).abs_lt_overflowAt

/-- Settles O28: an integer of 24 bits is a float, so its rounding is exact. -/
theorem integerToFloatIsExact : Obligations.IntegerToFloatIsExact := fun _ hn => ⟨finite_i2f hn, val_i2f hn⟩

theorem val_ite_fzero (x : ℚ) (s : Bool) : (if x = 0 then fzero s else nearestFlt x).val = rnd x := by
  split
  · next h => rw [h, val_fzero, rnd_zero]
  · rfl

theorem finite_ite_fzero {x : ℚ} (s : Bool) (hx : |x| < overflowAt) :
    (if x = 0 then fzero s else nearestFlt x).finite = true := by
  split
  · rfl
  · exact finite_nearestFlt hx

section finite

variable {a b : Flt} (ha : a.finite = true) (hb : b.finite = true)
include ha hb

theorem val_fadd : (fadd a b).val = rnd (a.val + b.val) := by rw [fadd_eq ha hb, val_ite_fzero]

theorem val_fsub : (fsub a b).val = rnd (a.val - b.val) := by rw [fsub_eq ha hb, val_ite_fzero]

theorem val_fmul : (fmul a b).val = rnd (a.val * b.val) := by rw [fmul_eq ha hb, val_ite_fzero]

theorem finite_fadd (h : |a.val + b.val| < overflowAt) : (fadd a b).finite = true := by
  rw [fadd_eq ha hb]
  exact finite_ite_fzero _ h

theorem finite_fsub (h : |a.val - b.val| < overflowAt) : (fsub a b).finite = true := by
  rw [fsub_eq ha hb]
  exact finite_ite_fzero _ h

theorem finite_fmul (h : |a.val * b.val| < overflowAt) : (fmul a b).finite = true := by
  rw [fmul_eq ha hb]
  exact finite_ite_fzero _ h

theorem fdiv_eq_ite_div (hb0 : b.val ≠ 0) : fdiv a b =
    if a.val / b.val = 0 then fzero (a.negative ^^ b.negative) else nearestFlt (a.val / b.val) := by
  rw [fdiv_eq ha hb hb0]
  exact if_congr (by simp [hb0]) rfl rfl

theorem val_fdiv (hb0 : b.val ≠ 0) : (fdiv a b).val = rnd (a.val / b.val) := by
  rw [fdiv_eq_ite_div ha hb hb0, val_ite_fzero]

theorem finite_fdiv (hb0 : b.val ≠ 0) (h : |a.val / b.val| < overflowAt) : (fdiv a b).finite = true := by
  rw [fdiv_eq_ite_div ha hb hb0]
  exact finite_ite_fzero _ h

end finite

/-! ### Comparisons (R71) -/

theorem val_eq_signedAt_mul (s : Bool) (m : Nat) {em e : Int} (h : e ≤ em) :
    (Flt.fin s m em).val = signedAt s m em e * 2 ^ e := (signedAt_mul s m h).symm

section comparisons

variable {a b : Flt} (ha : a.finite = true) (hb : b.finite = true)
include ha hb

theorem flt_iff : flt a b = true ↔ a.val < b.val := by
  obtain ⟨sa, ma, ea, rfl⟩ := exists_fin_of_finite ha
  obtain ⟨sb, mb, eb, rfl⟩ := exists_fin_of_finite hb
  rw [val_eq_signedAt_mul sa ma (min_le_left ea eb), val_eq_signedAt_mul sb mb (min_le_right ea eb),
    mul_lt_mul_iff_left₀ (by positivity), Int.cast_lt]
  exact decide_eq_true_iff

theorem feq_iff : feq a b = true ↔ a.val = b.val := by
  obtain ⟨sa, ma, ea, rfl⟩ := exists_fin_of_finite ha
  obtain ⟨sb, mb, eb, rfl⟩ := exists_fin_of_finite hb
  rw [val_eq_signedAt_mul sa ma (min_le_left ea eb), val_eq_signedAt_mul sb mb (min_le_right ea eb),
    mul_left_inj' (by positivity), Int.cast_inj]
  exact decide_eq_true_iff

theorem fmin_spec : (fmin a b).finite = true ∧ (fmin a b).val = min a.val b.val := by
  unfold fmin
  split
  · next h => exact ⟨hb, (min_eq_right ((flt_iff hb ha).mp h).le).symm⟩
  · next h => exact ⟨ha, (min_eq_left (not_lt.mp ((flt_iff hb ha).not.mp h))).symm⟩

theorem fmax_spec : (fmax a b).finite = true ∧ (fmax a b).val = max a.val b.val := by
  unfold fmax
  split
  · next h => exact ⟨hb, (max_eq_right ((flt_iff ha hb).mp h).le).symm⟩
  · next h => exact ⟨ha, (max_eq_left (not_lt.mp ((flt_iff ha hb).not.mp h))).symm⟩

variable {c : Flt} (hc : c.finite = true)
include hc

theorem val_min3 : (min3 a b c).val = min (min a.val b.val) c.val := by
  obtain ⟨hf, hv⟩ := fmin_spec ha hb
  rw [min3, (fmin_spec hf hc).2, hv]

theorem val_max3 : (max3 a b c).val = max (max a.val b.val) c.val := by
  obtain ⟨hf, hv⟩ := fmax_spec ha hb
  rw [max3, (fmax_spec hf hc).2, hv]

end comparisons

/-- Settles O29: finite floats compare as multiples of a common quantum, and the other cases by definition. -/
theorem floatComparisonsFollowTheValues : Obligations.FloatComparisonsFollowTheValues := by
  refine ⟨fun a b c ha hb hc => ⟨flt_iff ha hb, flt_iff hb ha, feq_iff ha hb, val_min3 ha hb hc, val_max3 ha hb hc⟩,
    fun a s t ha => ?_, fun a => ?_⟩
  · obtain ⟨sa, ma, ea, rfl⟩ := exists_fin_of_finite ha
    exact ⟨rfl, rfl, rfl, rfl, rfl, rfl, rfl, Bool.and_comm _ _, rfl⟩
  · cases a <;> exact ⟨rfl, rfl, rfl, rfl, rfl, rfl⟩

/-! ### Special values (R71, R72) -/

theorem negative_of_val_pos {a : Flt} (ha : a.finite = true) (h : 0 < a.val) : a.negative = false := by
  obtain ⟨s, m, e, rfl⟩ := exists_fin_of_finite ha
  cases s with
  | false => rfl
  | true =>
    have : (0 : ℚ) ≤ m * 2 ^ e := by positivity
    simp only [val_fin, withSign_true] at h
    linarith

/-- A finite float against a zero divisor and against an infinity. -/
theorem special_of_finite {a : Flt} (ha : a.finite = true) (s : Bool) :
    (a.val ≠ 0 → fdiv a (fzero s) = .inf (a.negative ^^ s) ∧ fmul (.inf s) a = .inf (s ^^ a.negative) ∧
      fmul a (.inf s) = .inf (a.negative ^^ s)) ∧
    (a.val = 0 → fdiv a (fzero s) = .nan ∧ fmul (.inf s) a = .nan ∧ fmul a (.inf s) = .nan) := by
  obtain ⟨sa, m, e, rfl⟩ := exists_fin_of_finite ha
  have h0 : (Flt.fin sa m e).val = 0 ↔ m = 0 := by simp [zpow_ne_zero]
  rw [Ne, h0]
  exact ⟨fun h => ⟨if_neg h, if_neg h, if_neg h⟩, fun h => ⟨if_pos h, if_pos h, if_pos h⟩⟩

/-- Settles O57: the results at zero divisors, infinities and NaN, and the sign of a zero result. -/
theorem floatSpecialValues : Obligations.FloatSpecialValues := by
  refine ⟨fun a ha hpos => ?_, fun a s ha => ⟨(special_of_finite ha s).1, (special_of_finite ha s).2, ?_⟩,
    fun s t => ?_, fun a => ?_, fun a b ha hb => ⟨fun h => ?_, fun h => ?_, fun h => ?_, fun hb0 h => ?_⟩⟩
  · simpa [negative_of_val_pos ha hpos] using (special_of_finite ha false).1 hpos.ne'
  · obtain ⟨sa, m, e, rfl⟩ := exists_fin_of_finite ha
    exact ⟨rfl, rfl, rfl, rfl, rfl, rfl⟩
  · cases s <;> cases t <;> exact ⟨rfl, rfl, rfl, rfl⟩
  · cases a <;> exact ⟨rfl, rfl, rfl, rfl, rfl, rfl, rfl, rfl⟩
  · rw [fadd_eq ha hb, if_pos h]
  · rw [fsub_eq ha hb, if_pos h]
  · rw [fmul_eq ha hb, if_pos h]
  · rw [fdiv_eq ha hb hb0, if_pos h]

end Sys2Proof.Proofs

namespace Sys2Proof.Proofs

open Sys2Proof Sys2Proof.Machine Sys2Proof.Laws

/-! ### Float to integer (R71, R82) -/

/-- The truncated magnitude is the integer part. -/
theorem truncMagnitude_eq_floor (m : Nat) (e : Int) : (truncMagnitude m e : ℤ) = ⌊(m : ℚ) * 2 ^ e⌋ := by
  have hval : (m : ℚ) * 2 ^ e = ((m * 2 ^ e.toNat : ℕ) : ℤ) / ((2 ^ (-e).toNat : ℕ) : ℚ) := by
    push_cast
    rw [← zpow_mul_pow_toNat e]
    field_simp
  rw [hval, Rat.floor_intCast_div_natCast, truncMagnitude]
  push_cast
  rfl

theorem saturateInt_eq (z : Int) :
    saturateInt z = if 2147483647 < z then 2147483647 else if z < -2147483648 then -2147483648 else z := rfl

theorem saturateInt_range (z : Int) : -2147483648 ≤ saturateInt z ∧ saturateInt z ≤ 2147483647 := by
  rw [saturateInt_eq]
  split_ifs <;> omega

theorem f2i_toInt_fin (s : Bool) (m : Nat) (e : Int) : (f2i (.fin s m e)).toInt =
    saturateInt (if s then -(truncMagnitude m e : Int) else (truncMagnitude m e : Int)) := by
  obtain ⟨hlo, hhi⟩ := saturateInt_range (if s then -(truncMagnitude m e : Int) else (truncMagnitude m e : Int))
  exact BitVec.toInt_ofInt_eq_self (by decide) hlo (Int.lt_add_one_of_le hhi)

/-- A nonnegative float converts to its integer part, saturated. -/
theorem f2i_toInt_of_nonneg {a : Flt} (ha : a.finite = true) (h : 0 ≤ a.val) : (f2i a).toInt = saturateInt ⌊a.val⌋ := by
  obtain ⟨s, m, e, rfl⟩ := exists_fin_of_finite ha
  rw [f2i_toInt_fin]
  congr 1
  cases s with
  | false => exact truncMagnitude_eq_floor m e
  | true =>
    have hzero : (m : ℚ) * 2 ^ e = 0 := le_antisymm (by simpa using h) (by positivity)
    simp [truncMagnitude_eq_floor, hzero]

/-- A float that is not positive converts to its value rounded up, saturated. -/
theorem f2i_toInt_of_nonpos {a : Flt} (ha : a.finite = true) (h : a.val ≤ 0) : (f2i a).toInt = saturateInt ⌈a.val⌉ := by
  obtain ⟨s, m, e, rfl⟩ := exists_fin_of_finite ha
  rw [f2i_toInt_fin]
  congr 1
  cases s with
  | false =>
    have hzero : (m : ℚ) * 2 ^ e = 0 := le_antisymm (by simpa using h) (by positivity)
    simp [truncMagnitude_eq_floor, hzero]
  | true => simp [truncMagnitude_eq_floor, Int.ceil_neg]

/-- Settles O30: the integer part or the value rounded up, by the sign, and saturation outside 32 bits. -/
theorem floatToIntegerTruncatesAndSaturates : Obligations.FloatToIntegerTruncatesAndSaturates := by
  refine ⟨fun a ha => ⟨fun h0 h => ?_, fun h0 h => ?_, fun h => ?_, fun h => ?_⟩, by decide, by decide, by decide⟩
  · have hlo : 0 ≤ ⌊a.val⌋ := Int.floor_nonneg.mpr h0
    have hhi : ⌊a.val⌋ < 2147483648 := Int.floor_lt.mpr (by norm_num at h ⊢; exact h)
    rw [f2i_toInt_of_nonneg ha h0, saturateInt_eq, if_neg (by omega), if_neg (by omega)]
  · have hlo : -2147483648 < ⌈a.val⌉ := Int.lt_ceil.mpr (by norm_num at h ⊢; exact h)
    have hhi : ⌈a.val⌉ ≤ 0 := Int.ceil_nonpos.mpr h0.le
    rw [f2i_toInt_of_nonpos ha h0.le, saturateInt_eq, if_neg (by omega), if_neg (by omega)]
  · have hlo : 2147483648 ≤ ⌊a.val⌋ := Int.le_floor.mpr (by norm_num at h ⊢; exact h)
    rw [f2i_toInt_of_nonneg ha (by linarith), saturateInt_eq, if_pos (by omega)]
  · have hhi : ⌈a.val⌉ ≤ -2147483648 := Int.ceil_le.mpr (by norm_num at h ⊢; exact h)
    rw [f2i_toInt_of_nonpos ha (by linarith), saturateInt_eq, if_neg (by omega)]
    split_ifs <;> omega

/-! ### The binary32 patterns (R70) -/

/-- A pattern from its three fields. -/
def binary32Word (neg : Bool) (ex : BitVec 8) (frac : BitVec 23) : BitVec 32 := BitVec.ofBool neg ++ ex ++ frac

theorem toNat_binary32Word (neg : Bool) (ex : BitVec 8) (frac : BitVec 23) :
    (binary32Word neg ex frac).toNat = neg.toNat * 2 ^ 31 + ex.toNat * 2 ^ 23 + frac.toNat := by
  have : (binary32Word neg ex frac).toNat = (BitVec.ofBool neg ++ ex ++ frac : BitVec (1 + 8 + 23)).toNat := rfl
  rw [this, toNat_append, toNat_append, BitVec.toNat_ofBool]
  omega

theorem frac_binary32Word (neg : Bool) (ex : BitVec 8) (frac : BitVec 23) :
    (binary32Word neg ex frac).extractLsb' 0 23 = frac := by
  apply BitVec.eq_of_toNat_eq
  rw [BitVec.extractLsb'_toNat, toNat_binary32Word]
  have := frac.isLt
  simp only [Nat.shiftRight_eq_div_pow]
  omega

theorem ex_binary32Word (neg : Bool) (ex : BitVec 8) (frac : BitVec 23) :
    (binary32Word neg ex frac).extractLsb' 23 8 = ex := by
  apply BitVec.eq_of_toNat_eq
  rw [BitVec.extractLsb'_toNat, toNat_binary32Word]
  have := frac.isLt
  have := ex.isLt
  simp only [Nat.shiftRight_eq_div_pow]
  omega

theorem sign_binary32Word (neg : Bool) (ex : BitVec 8) (frac : BitVec 23) :
    (binary32Word neg ex frac).extractLsb' 31 1 = BitVec.ofBool neg := by
  apply BitVec.eq_of_toNat_eq
  rw [BitVec.extractLsb'_toNat, toNat_binary32Word, BitVec.toNat_ofBool]
  have := frac.isLt
  have := ex.isLt
  have := Bool.toNat_lt neg
  simp only [Nat.shiftRight_eq_div_pow]
  omega

/-- Every pattern is built from its fields. -/
theorem exists_binary32Word (w : BitVec 32) : ∃ neg ex frac, w = binary32Word neg ex frac := by
  refine ⟨w.extractLsb' 31 1 == 1#1, w.extractLsb' 23 8, w.extractLsb' 0 23, BitVec.eq_of_toNat_eq ?_⟩
  have hsign : (w.extractLsb' 31 1 == 1#1).toNat = w.toNat / 2 ^ 31 := by
    have hlt := w.isLt
    have hval : (w.extractLsb' 31 1).toNat = w.toNat / 2 ^ 31 := by
      rw [BitVec.extractLsb'_toNat, Nat.shiftRight_eq_div_pow]
      omega
    rcases BitVec.eq_zero_or_eq_one (w.extractLsb' 31 1) with h | h <;> rw [h] at hval ⊢ <;> exact hval
  rw [toNat_binary32Word, hsign, BitVec.extractLsb'_toNat, BitVec.extractLsb'_toNat]
  simp only [Nat.shiftRight_eq_div_pow]
  omega

/-- The float of a pattern by its fields. -/
theorem ofBits_binary32Word (neg : Bool) (ex : BitVec 8) (frac : BitVec 23) :
    Flt.ofBits (binary32Word neg ex frac) =
      if ex.toNat = 255 then (if frac.toNat = 0 then .inf neg else .nan)
      else if ex.toNat = 0 then .fin neg frac.toNat (-149)
      else .fin neg (2 ^ 23 + frac.toNat) ((ex.toNat : Int) - 150) := by
  have hneg : (BitVec.ofBool neg == 1#1) = neg := by cases neg <;> rfl
  simp only [Flt.ofBits, sign_binary32Word, ex_binary32Word, frac_binary32Word, hneg]

theorem toBits_fin (neg : Bool) (m : Nat) (e : Int) : (Flt.fin neg m e).toBits =
    binary32Word neg (BitVec.ofNat 8 (if m < 2 ^ 23 then 0 else (e + 150).toNat)) (BitVec.ofNat 23 m) := rfl

/-- Reading back the pattern of a finite float. -/
theorem ofBits_toBits_of_finite {a : Flt} (ha : a.finite = true) : Flt.ofBits a.toBits = a := by
  obtain ⟨neg, m, e, rfl⟩ := exists_fin_of_finite ha
  obtain ⟨hm, he, he', hlead⟩ := finite_fin_iff.mp ha
  rw [toBits_fin, ofBits_binary32Word, BitVec.toNat_ofNat, BitVec.toNat_ofNat]
  by_cases hsub : m < 2 ^ 23
  · obtain rfl : e = -149 := by omega
    rw [if_pos hsub, if_neg (by decide), if_pos (by decide), Nat.mod_eq_of_lt hsub]
  · rw [if_neg hsub, if_neg (by omega), if_neg (by omega)]
    congr 1 <;> omega

/-- Settles O31: a pattern is its three fields, and each kind of float has its own exponent field. -/
theorem floatsAreBinary32Patterns : Obligations.FloatsAreBinary32Patterns := by
  refine ⟨fun a ha => ?_, fun w => ?_⟩
  · cases a with
    | nan => decide
    | inf neg => cases neg <;> decide
    | fin neg m e => exact ofBits_toBits_of_finite ha
  · obtain ⟨neg, ex, frac, rfl⟩ := exists_binary32Word w
    have hex := ex.isLt
    have hfrac := frac.isLt
    rw [ofBits_binary32Word]
    split_ifs with h255 h0 h0
    · refine ⟨rfl, fun _ => ?_⟩
      rw [BitVec.eq_of_toNat_eq (x := ex) (y := 0xFF#8) h255, BitVec.eq_of_toNat_eq (x := frac) (y := 0#23) h0]
      rfl
    · exact ⟨rfl, fun h => absurd rfl h⟩
    · refine ⟨(finite_fin_iff (neg := neg)).mpr ⟨by omega, by omega, by omega, .inr rfl⟩, fun _ => ?_⟩
      rw [toBits_fin, if_pos hfrac, ← h0, BitVec.ofNat_toNat, BitVec.ofNat_toNat]
      simp
    · refine ⟨(finite_fin_iff (neg := neg)).mpr ⟨by omega, by omega, by omega, .inl (by omega)⟩, fun _ => ?_⟩
      rw [toBits_fin, if_neg (by omega)]
      congr 1 <;> apply BitVec.eq_of_toNat_eq <;> rw [BitVec.toNat_ofNat] <;> omega

end Sys2Proof.Proofs

namespace Sys2Proof.Proofs

open Sys2Proof Sys2Proof.Machine Sys2Proof.Laws

/-! ### Bounds of a rounded result -/

/-- A finite float between two bounds. -/
structure Within (a : Flt) (lo hi : ℚ) : Prop where
  finite : a.finite = true
  ge : lo ≤ a.val
  le : a.val ≤ hi

theorem representable_of_abs {x : ℚ} (m j : Nat) (h : m < 2 ^ 24 ∧ j ≤ 149 ∧ |x| = m / 2 ^ j) : Representable x := by
  obtain ⟨hm, hj, hx⟩ := h
  have hrep : Representable |x| := hx ▸ representable_div_pow hm hj
  rcases abs_choice x with h | h <;> rw [h] at hrep
  · exact hrep
  · simpa using hrep.neg

theorem representable_zero : Representable 0 := ⟨fzero false, rfl, val_fzero false⟩

section operations

variable {a b : Flt} {lo hi : ℚ} (ha : a.finite = true) (hb : b.finite = true) (hlo : Representable lo)
  (hhi : Representable hi)
include ha hb hlo hhi

theorem within_fadd (h : lo ≤ a.val + b.val) (h' : a.val + b.val ≤ hi) : Within (fadd a b) lo hi := by
  obtain ⟨hx, hge, hle⟩ := rnd_between hlo hhi h h'
  rw [← val_fadd ha hb] at hge hle
  exact ⟨finite_fadd ha hb hx, hge, hle⟩

theorem within_fsub (h : lo ≤ a.val - b.val) (h' : a.val - b.val ≤ hi) : Within (fsub a b) lo hi := by
  obtain ⟨hx, hge, hle⟩ := rnd_between hlo hhi h h'
  rw [← val_fsub ha hb] at hge hle
  exact ⟨finite_fsub ha hb hx, hge, hle⟩

theorem within_fmul (h : lo ≤ a.val * b.val) (h' : a.val * b.val ≤ hi) : Within (fmul a b) lo hi := by
  obtain ⟨hx, hge, hle⟩ := rnd_between hlo hhi h h'
  rw [← val_fmul ha hb] at hge hle
  exact ⟨finite_fmul ha hb hx, hge, hle⟩

theorem within_fdiv (hb0 : 0 < b.val) (h : lo * b.val ≤ a.val) (h' : a.val ≤ hi * b.val) : Within (fdiv a b) lo hi := by
  obtain ⟨hx, hge, hle⟩ := rnd_between hlo hhi ((le_div_iff₀ hb0).mpr h) ((div_le_iff₀ hb0).mpr h')
  rw [← val_fdiv ha hb hb0.ne'] at hge hle
  exact ⟨finite_fdiv ha hb hb0.ne' hx, hge, hle⟩

end operations

section constants

variable {a : Flt} {k : Nat} {lo hi lo' hi' : ℚ} (h : Within a lo hi) (hk : k < 2 ^ 24) (hlo : Representable lo')
  (hhi : Representable hi')
include h hk hlo hhi

/-- Scaling by a constant scales the bounds. -/
theorem within_fmul_i2f (hge : lo' ≤ lo * k) (hle : hi * k ≤ hi') : Within (fmul a (i2f k)) lo' hi' := by
  refine within_fmul h.finite (finite_i2f hk) hlo hhi ?_ ?_ <;> rw [val_i2f hk]
  · exact hge.trans (mul_le_mul_of_nonneg_right h.ge k.cast_nonneg)
  · exact (mul_le_mul_of_nonneg_right h.le k.cast_nonneg).trans hle

/-- Dividing by a constant divides the bounds. -/
theorem within_fdiv_i2f (hk0 : (0 : ℚ) < k) (hge : lo' * k ≤ lo) (hle : hi ≤ hi' * k) :
    Within (fdiv a (i2f k)) lo' hi' := by
  refine within_fdiv h.finite (finite_i2f hk) hlo hhi ?_ ?_ ?_ <;> rw [val_i2f hk]
  · exact hk0
  · exact hge.trans h.ge
  · exact h.le.trans hle

end constants

/-- Below 4096 the rounding error is at most `2^-12`. -/
theorem abs_sub_rnd_le_of_lt {x : ℚ} (h0 : 0 ≤ x) (h : x < 4096) : |x - rnd x| ≤ 1 / 4096 := by
  have hfloor : ⌊x * 4096⌋₊ < 2 ^ 24 := (Nat.floor_lt (by positivity)).mpr (by norm_num; linarith)
  have hrep := representable_div_pow (j := 12) hfloor (by norm_num)
  have hx : |x| < overflowAt := by
    rw [abs_of_nonneg h0]
    exact h.trans (by norm_num [overflowAt])
  refine (abs_sub_rnd_le hx hrep).trans ?_
  have hle := Nat.floor_le (show 0 ≤ x * 4096 by positivity)
  have hlt := Nat.lt_floor_add_one (x * 4096)
  rw [abs_le]
  constructor <;> norm_num <;> linarith

/-! ### The normalised channels (R75, R76) -/

section normalise

variable {m n : Nat}

theorem finite_val_normalise (hn : n ≤ 262143) :
    (normalise n).finite = true ∧ (normalise n).val = rnd (n / 255) := by
  have hn24 : n < 2 ^ 24 := by omega
  have h255 : (i2f 255).val = 255 := val_i2f (by norm_num)
  have hval : (i2f n).val / (i2f 255).val = n / 255 := by rw [val_i2f hn24, h255]
  have hx : |(i2f n).val / (i2f 255).val| < overflowAt := by
    rw [hval, abs_of_nonneg (by positivity)]
    calc (n : ℚ) / 255 ≤ 262143 / 255 := by gcongr; exact_mod_cast hn
      _ < overflowAt := by norm_num [overflowAt]
  refine ⟨finite_fdiv (finite_i2f hn24) (finite_i2f (by norm_num)) (by rw [h255]; norm_num) hx, ?_⟩
  rw [normalise, val_fdiv (finite_i2f hn24) (finite_i2f (by norm_num)) (by rw [h255]; norm_num), hval]

theorem finite_normalise (hn : n ≤ 262143) : (normalise n).finite = true := (finite_val_normalise hn).1

/-- Different channels stay a distance apart that no rounding of their difference closes. -/
theorem normalise_gap (hmn : m < n) (hn : n ≤ 262143) : (normalise m).val + 1 / 512 ≤ (normalise n).val := by
  have hn' : (n : ℚ) ≤ 262143 := by exact_mod_cast hn
  have hstep : (m : ℚ) + 1 ≤ n := by exact_mod_cast hmn
  have herr (k : Nat) (hk : (k : ℚ) ≤ 262143) : |(k : ℚ) / 255 - rnd (k / 255)| ≤ 1 / 4096 :=
    abs_sub_rnd_le_of_lt (by positivity) (by linarith)
  obtain ⟨hm1, -⟩ := abs_le.mp (herr m (by linarith))
  obtain ⟨-, hn1⟩ := abs_le.mp (herr n hn')
  rw [(finite_val_normalise hn).2, (finite_val_normalise (by omega)).2]
  linarith

theorem normalise_mono (hmn : m ≤ n) (hn : n ≤ 262143) : (normalise m).val ≤ (normalise n).val := by
  rcases hmn.eq_or_lt with rfl | h
  · exact le_rfl
  · linarith [normalise_gap h hn]

theorem normalise_lt_iff (hm : m ≤ 262143) (hn : n ≤ 262143) : (normalise m).val < (normalise n).val ↔ m < n := by
  constructor
  · intro h
    by_contra! hle
    exact absurd (normalise_mono hle hm) (not_le.mpr h)
  · intro h
    linarith [normalise_gap h hn]

/-- Settles O17: the quotients of two channels differ by more than their rounding errors. -/
theorem normaliseIsStrictlyIncreasing : Obligations.NormaliseIsStrictlyIncreasing := fun _ _ hmn hn =>
  (flt_iff (finite_normalise (by omega)) (finite_normalise hn)).mpr ((normalise_lt_iff (by omega) hn).mpr hmn)

theorem flt_normalise (hm : m ≤ 262143) (hn : n ≤ 262143) : flt (normalise m) (normalise n) = true ↔ m < n :=
  (flt_iff (finite_normalise hm) (finite_normalise hn)).trans (normalise_lt_iff hm hn)

theorem feq_normalise (hm : m ≤ 262143) (hn : n ≤ 262143) : feq (normalise m) (normalise n) = true ↔ m = n := by
  rw [feq_iff (finite_normalise hm) (finite_normalise hn), le_antisymm_iff, ← not_lt, ← not_lt, normalise_lt_iff hn hm,
    normalise_lt_iff hm hn]
  omega

theorem fmin_normalise (hm : m ≤ 262143) (hn : n ≤ 262143) :
    fmin (normalise m) (normalise n) = normalise (min m n) := by
  rw [fmin, if_congr (flt_normalise hn hm) rfl rfl]
  split
  · next h => rw [min_eq_right h.le]
  · next h => rw [min_eq_left (not_lt.mp h)]

theorem fmax_normalise (hm : m ≤ 262143) (hn : n ≤ 262143) :
    fmax (normalise m) (normalise n) = normalise (max m n) := by
  rw [fmax, if_congr (flt_normalise hm hn) rfl rfl]
  split
  · next h => rw [max_eq_right h.le]
  · next h => rw [max_eq_left (not_lt.mp h)]

theorem normalise_nonneg (hn : n ≤ 262143) : 0 ≤ (normalise n).val := by
  rw [(finite_val_normalise hn).2]
  have h1029 : (n : ℚ) / 255 ≤ 1029 := by
    have : (n : ℚ) ≤ 262143 := by exact_mod_cast hn
    linarith
  exact (rnd_between representable_zero (representable_of_abs 1029 0 (by norm_num))
    (by positivity) h1029).2.1

theorem normalise_le {k : Nat} (hk : k ≤ 1029) (hn : n ≤ 262143) (h : n ≤ 255 * k) : (normalise n).val ≤ k := by
  rw [(finite_val_normalise hn).2]
  have hle : (n : ℚ) / 255 ≤ k := by
    have : (n : ℚ) ≤ 255 * k := by exact_mod_cast h
    linarith
  exact (rnd_between (lo := 0) representable_zero (representable_natCast (by omega)) (by positivity)
    hle).2.2

/-- The rounded difference of two different channels is well above 0. -/
theorem within_normalise_sub (hmn : m < n) (hn : n ≤ 262143) :
    Within (fsub (normalise n) (normalise m)) (1 / 512) 1029 := by
  have hm : m ≤ 262143 := by omega
  have hgap := normalise_gap hmn hn
  have hge := normalise_nonneg hm
  have hle := normalise_le (k := 1029) le_rfl hn (by omega)
  push_cast at hle
  exact within_fsub (finite_normalise hn) (finite_normalise hm) (representable_of_abs 1 9 (by norm_num))
    (representable_of_abs 1029 0 (by norm_num)) (by linarith) (by linarith)

end normalise

/-! ### The extremes of three channels (R76) -/

/-- The greatest channel. -/
def maxChannel (r g b : Nat) : Nat := max (max r g) b

/-- The least channel. -/
def minChannel (r g b : Nat) : Nat := min (min r g) b

/-- The float `range` of step 2 (R76). -/
def channelRange (r g b : Nat) : Flt := fsub (normalise (maxChannel r g b)) (normalise (minChannel r g b))

/-- The float `sumC` of step 3 (R77). -/
def channelSum (r g b : Nat) : Flt := fadd (normalise (maxChannel r g b)) (normalise (minChannel r g b))

section channels

variable {r g b : Nat} (hr : r ≤ 262143) (hg : g ≤ 262143) (hb : b ≤ 262143)
include hr hg hb

theorem max3_normalise : max3 (normalise r) (normalise g) (normalise b) = normalise (maxChannel r g b) := by
  rw [max3, fmax_normalise hr hg, fmax_normalise (max_le hr hg) hb, maxChannel]

theorem min3_normalise : min3 (normalise r) (normalise g) (normalise b) = normalise (minChannel r g b) := by
  rw [min3, fmin_normalise hr hg, fmin_normalise (by omega) hb, minChannel]

theorem maxChannel_le : maxChannel r g b ≤ 262143 := max_le (max_le hr hg) hb

end channels

theorem minChannel_le {r g b : Nat} (hb : b ≤ 262143) : minChannel r g b ≤ 262143 := (min_le_right _ _).trans hb

theorem minChannel_le_maxChannel (r g b : Nat) : minChannel r g b ≤ maxChannel r g b :=
  (min_le_right _ _).trans (le_max_right _ _)

theorem minChannel_eq_maxChannel_iff {r g b : Nat} : minChannel r g b = maxChannel r g b ↔ r = g ∧ g = b := by
  unfold minChannel maxChannel
  omega

/-- The difference of a finite float with itself is +0.0. -/
theorem fsub_self {a : Flt} (ha : a.finite = true) : fsub a a = fzero false := by
  rw [fsub_eq ha ha, if_pos (sub_self _), Bool.and_not_self]

section range

variable {r g b : Nat} (hr : r ≤ 262143) (hg : g ≤ 262143) (hb : b ≤ 262143)
include hr hg hb

/-- Unequal channels have a range well above 0. -/
theorem within_channelRange (hne : ¬(r = g ∧ g = b)) : Within (channelRange r g b) (1 / 512) 1029 :=
  within_normalise_sub
    ((minChannel_le_maxChannel r g b).lt_of_ne (minChannel_eq_maxChannel_iff.not.mpr hne)) (maxChannel_le hr hg hb)

theorem channelRange_eq_fzero_iff : channelRange r g b = fzero false ↔ r = g ∧ g = b := by
  constructor
  · intro h
    by_contra hne
    have hge := (within_channelRange hr hg hb hne).ge
    rw [h, val_fzero] at hge
    norm_num at hge
  · intro h
    rw [channelRange, minChannel_eq_maxChannel_iff.mpr h, fsub_self (finite_normalise (maxChannel_le hr hg hb))]

theorem feq_channelRange : feq (channelRange r g b) (fzero false) = true ↔ r = g ∧ g = b := by
  constructor
  · intro h
    by_contra hne
    have hw := within_channelRange hr hg hb hne
    rw [feq_iff hw.finite rfl, val_fzero] at h
    have hge := hw.ge
    rw [h] at hge
    norm_num at hge
  · intro h
    rw [(channelRange_eq_fzero_iff hr hg hb).mpr h]
    decide

end range

/-- Settles O18: the extremes of the floats are those of the channels, and different channels stay apart. -/
theorem rangeIsZeroOnlyForEqualChannels : Obligations.RangeIsZeroOnlyForEqualChannels := by
  intro r g b hr hg hb
  simp only [max3_normalise hr hg hb, min3_normalise hr hg hb]
  exact channelRange_eq_fzero_iff hr hg hb

end Sys2Proof.Proofs

namespace Sys2Proof.Proofs

open Sys2Proof Sys2Proof.Machine Sys2Proof.Laws

/-! ### The scalar commands as completions (R74, R83, R88) -/

/-- A completion changes nothing but the response and MODE. -/
theorem completedWith_respond (k : RespKind) (c : FaultCode) (r : Res) (s : State) :
    CompletedWith s (respond k c r s) k c r :=
  ⟨⟨rfl, rfl, rfl, rfl, rfl, rfl⟩, ⟨rfl, rfl, rfl, fun _ => rfl⟩, ⟨rfl, rfl, rfl⟩, ⟨rfl, rfl, rfl⟩, ⟨rfl, rfl⟩⟩

theorem exec_extractArgb (p : Word) (s : State) :
    exec (.extractArgb p) s = .next (respond .ok .noFault (argbResult p) s) := rfl

theorem exec_rgbToHsl (r g b : Word) (s : State) :
    exec (.rgbToHsl r g b) s = .next (respond .ok .noFault (hslResult r g b) s) := rfl

theorem exec_brightnessScore (p : Word) (s : State) :
    exec (.brightnessScore p) s = .next (respond .ok .noFault (brightnessResult p) s) := rfl

/-- A channel byte keeps its value in a word. -/
theorem channelWord_toNat (c : Byte) : (channelWord c).toNat = c.toNat := by
  have := c.isLt
  rw [channelWord, BitVec.toNat_setWidth]
  omega

theorem channelWord_setWidth (c : Byte) : (channelWord c).setWidth 8 = c := by
  apply BitVec.eq_of_toNat_eq
  rw [BitVec.toNat_setWidth, channelWord_toNat, Nat.mod_eq_of_lt c.isLt]

/-- The four bytes of a pixel make it up (R73). -/
theorem packArgb_pixel (p : Word) : packArgb (pixelAlpha p) (pixelRed p) (pixelGreen p) (pixelBlue p) = p := by
  apply BitVec.eq_of_toNat_eq
  rw [packArgb_toNat, pixelAlpha_toNat, pixelRed_toNat, pixelGreen_toNat, pixelBlue_toNat]
  omega

/-- Settles O13: each result is a channel byte, and the bytes make up the pixel. -/
theorem packUndoesExtractArgb : Obligations.PackUndoesExtractArgb := by
  intro p s
  refine ⟨_, exec_extractArgb p s, ?_⟩
  simp only [respond_res, argbResult, channelWord_setWidth, channelWord_toNat]
  exact ⟨packArgb_pixel p, BitVec.isLt _, BitVec.isLt _, BitVec.isLt _, BitVec.isLt _⟩

/-- Settles O12: each result is a channel byte of the pixel. -/
theorem extractArgbCompletes : Obligations.ExtractArgbCompletes := by
  intro p s
  refine ⟨_, _, exec_extractArgb p s, completedWith_respond _ _ _ s, ?_⟩
  simp only [argbResult, channelWord_toNat]
  exact ⟨pixelAlpha_toNat p, pixelRed_toNat p, pixelGreen_toNat p, pixelBlue_toNat p⟩

/-! ### The datapath by its steps (R75 to R81) -/

section steps

variable (rf gf bf : Flt)

theorem hslUnscaled_hf : (hslUnscaled rf gf bf).hf =
    if feq (fsub (max3 rf gf bf) (min3 rf gf bf)) (fzero false) = true then fzero false
    else hue rf gf bf (max3 rf gf bf) (fsub (max3 rf gf bf) (min3 rf gf bf)) := apply_ite HslFloats.hf _ _ _

theorem hslUnscaled_sf : (hslUnscaled rf gf bf).sf =
    if feq (fsub (max3 rf gf bf) (min3 rf gf bf)) (fzero false) = true then fzero false
    else saturation (fsub (max3 rf gf bf) (min3 rf gf bf)) (fadd (max3 rf gf bf) (min3 rf gf bf))
      (lightness (fadd (max3 rf gf bf) (min3 rf gf bf))) := apply_ite HslFloats.sf _ _ _

theorem hslUnscaled_lf : (hslUnscaled rf gf bf).lf = lightness (fadd (max3 rf gf bf) (min3 rf gf bf)) :=
  (apply_ite HslFloats.lf _ _ _).trans (ite_self _)

end steps

theorem hslCore_hf (r g b : Nat) : (hslCore r g b).hf =
    wrapHue (fmul (hslUnscaled (normalise r) (normalise g) (normalise b)).hf (i2f 60)) := rfl

theorem hslCore_sf (r g b : Nat) : (hslCore r g b).sf =
    fmul (hslUnscaled (normalise r) (normalise g) (normalise b)).sf (i2f 100) := rfl

theorem hslCore_lf (r g b : Nat) : (hslCore r g b).lf =
    fmul (hslUnscaled (normalise r) (normalise g) (normalise b)).lf (i2f 100) := rfl

/-- Settles O60: the datapath is the steps, the test of step 4 made once for the hue and once for the saturation. -/
theorem hslCoreFollowsTheSteps : Obligations.HslCoreFollowsTheSteps := by
  intro r g b
  rw [hslCore_hf, hslCore_sf, hslCore_lf, hslUnscaled_hf, hslUnscaled_sf, hslUnscaled_lf]
  exact ⟨rfl, rfl, rfl⟩

/-- Settles O14: the results are the truncated floats of the steps. -/
theorem rgbToHslCompletes : Obligations.RgbToHslCompletes := by
  intro r g b s
  obtain ⟨hhf, hsf, hlf⟩ := hslCoreFollowsTheSteps r.toNat g.toNat b.toNat
  refine ⟨_, exec_rgbToHsl r g b s, ?_⟩
  rw [hslResult, hhf, hsf, hlf]
  exact completedWith_respond _ _ _ s

/-- Settles O15 by running the datapath on the worked channels. -/
theorem rgbToHslWorkedExamples : Obligations.RgbToHslWorkedExamples :=
  ⟨by decide, by decide, by decide, by decide, by decide, by decide, by decide, by decide, by decide⟩

/-- Settles O25 by running the datapath on the worked pixels. -/
theorem brightnessWorkedExamples : Obligations.BrightnessWorkedExamples :=
  ⟨by decide, by decide, by decide, by decide, by decide, by decide⟩

/-- Settles O24: the bytes the datapath is fed are those of the pixel below alpha. -/
theorem brightnessScoreCompletes : Obligations.BrightnessScoreCompletes := by
  refine ⟨fun p s => ⟨_, exec_brightnessScore p s, ?_⟩, fun p q s h => ?_⟩
  · rw [brightnessResult, pixelRed_toNat, pixelGreen_toNat, pixelBlue_toNat]
    exact completedWith_respond _ _ _ s
  · have hred : p.toNat / 2 ^ 16 % 256 = q.toNat / 2 ^ 16 % 256 := by omega
    have hgreen : p.toNat / 2 ^ 8 % 256 = q.toNat / 2 ^ 8 % 256 := by omega
    have hblue : p.toNat % 256 = q.toNat % 256 := by omega
    simp only [exec_brightnessScore, brightnessResult, pixelRed_toNat, pixelGreen_toNat, pixelBlue_toNat, hred, hgreen,
      hblue]

/-! ### The datapath on channels (R76 to R80) -/

section channels

variable {r g b : Nat} (hr : r ≤ 262143) (hg : g ≤ 262143) (hb : b ≤ 262143)
include hr hg hb

/-- The hue arm of unequal channels, chosen by the channels themselves (R80). -/
theorem hslUnscaled_hf_of_ne (hne : ¬(r = g ∧ g = b)) :
    (hslUnscaled (normalise r) (normalise g) (normalise b)).hf =
      if g ≤ r ∧ b ≤ r then fdiv (fsub (normalise b) (normalise g)) (channelRange r g b)
      else if b ≤ g then fadd (i2f 2) (fdiv (fsub (normalise b) (normalise r)) (channelRange r g b))
      else fadd (i2f 4) (fdiv (fsub (normalise r) (normalise g)) (channelRange r g b)) := by
  have hM := maxChannel_le hr hg hb
  have hred : feq (normalise r) (normalise (maxChannel r g b)) = true ↔ g ≤ r ∧ b ≤ r := by
    rw [feq_normalise hr hM, maxChannel]
    omega
  rw [hslUnscaled_hf, max3_normalise hr hg hb, min3_normalise hr hg hb, ← channelRange,
    if_neg ((feq_channelRange hr hg hb).not.mpr hne), hue, if_congr hred rfl rfl]
  split
  · rfl
  · next h =>
    have hgreen : feq (normalise g) (normalise (maxChannel r g b)) = true ↔ b ≤ g := by
      rw [feq_normalise hg hM, maxChannel]
      omega
    rw [if_congr hgreen rfl rfl]

theorem hslUnscaled_sf_of_ne (hne : ¬(r = g ∧ g = b)) :
    (hslUnscaled (normalise r) (normalise g) (normalise b)).sf =
      saturation (channelRange r g b) (channelSum r g b) (lightness (channelSum r g b)) := by
  rw [hslUnscaled_sf, max3_normalise hr hg hb, min3_normalise hr hg hb, ← channelRange, ← channelSum,
    if_neg ((feq_channelRange hr hg hb).not.mpr hne)]

theorem hslUnscaled_lf_eq :
    (hslUnscaled (normalise r) (normalise g) (normalise b)).lf = lightness (channelSum r g b) := by
  rw [hslUnscaled_lf, max3_normalise hr hg hb, min3_normalise hr hg hb, ← channelSum]

end channels

/-- Equal channels have no hue and no saturation (R78). -/
theorem hslUnscaled_of_eq {c : Nat} (hc : c ≤ 262143) :
    (hslUnscaled (normalise c) (normalise c) (normalise c)).hf = fzero false ∧
      (hslUnscaled (normalise c) (normalise c) (normalise c)).sf = fzero false := by
  have hrange := (feq_channelRange hc hc hc).mpr ⟨rfl, rfl⟩
  rw [channelRange] at hrange
  rw [hslUnscaled_hf, hslUnscaled_sf, max3_normalise hc hc hc, min3_normalise hc hc hc, if_pos hrange, if_pos hrange]
  exact ⟨rfl, rfl⟩

/-- Settles O16: hue and saturation are zero through the scaling, and both extremes are the one channel. -/
theorem equalChannelsGiveZeroHueAndSaturation : Obligations.EqualChannelsGiveZeroHueAndSaturation := by
  intro c s hc
  obtain ⟨hhf, hsf⟩ := hslUnscaled_of_eq hc
  refine ⟨_, exec_rgbToHsl c c c s, ?_⟩
  rw [respond_res, hslResult, hslCore_hf, hslCore_sf, hslCore_lf, hhf, hsf, hslUnscaled_lf_eq hc hc hc, channelSum,
    maxChannel, minChannel, max_self, max_self, min_self, min_self]
  have hzero : f2i (wrapHue (fmul (fzero false) (i2f 60))) = 0#32 ∧ f2i (fmul (fzero false) (i2f 100)) = 0#32 := by
    decide
  exact ⟨hzero.1, hzero.2, rfl, rfl⟩

/-- Settles O19: comparing normalised channels is comparing channels. -/
theorem hueFavoursRedThenGreenThenBlue : Obligations.HueFavoursRedThenGreenThenBlue := by
  intro r g b hr hg hb hne
  simp only [max3_normalise hr hg hb, min3_normalise hr hg hb]
  exact hslUnscaled_hf_of_ne hr hg hb hne

end Sys2Proof.Proofs

namespace Sys2Proof.Proofs

open Sys2Proof Sys2Proof.Machine Sys2Proof.Laws

/-! ### The hue (R80, R81) -/

section hue

variable {r g b : Nat} (hr : r ≤ 262143) (hg : g ≤ 262143) (hb : b ≤ 262143)
include hr hg hb

/-- The rounded difference of two of the channels is at most their rounded range. -/
theorem val_normalise_sub_le {i j : Nat} (hji : j < i) (hi : i ≤ maxChannel r g b) (hj : minChannel r g b ≤ j) :
    (fsub (normalise i) (normalise j)).val ≤ (channelRange r g b).val := by
  have hM := maxChannel_le hr hg hb
  have hN := minChannel_le (r := r) (g := g) hb
  have hiM := hi.trans hM
  have hjM := hji.le.trans hiM
  have hbound {m n : Nat} (hmn : m < n) (hn : n ≤ 262143) : |(normalise n).val - (normalise m).val| < overflowAt := by
    have hle := normalise_le (k := 1029) le_rfl hn (by omega)
    have hgap := normalise_gap hmn hn
    push_cast at hle
    rw [abs_of_pos (by linarith)]
    exact lt_of_le_of_lt (by linarith [normalise_nonneg (hmn.le.trans hn)])
      (show (1029 : ℚ) < overflowAt by norm_num [overflowAt])
  rw [channelRange, val_fsub (finite_normalise hiM) (finite_normalise hjM),
    val_fsub (finite_normalise hM) (finite_normalise hN)]
  exact rnd_mono (hbound hji hiM) (hbound (by omega) hM) (sub_le_sub (normalise_mono hi hM) (normalise_mono hj hjM))

variable (hne : ¬(r = g ∧ g = b))
include hne

/-- A difference of two of the channels divided by their range is within 1, and not near 0 when it is negative: the
numerator is at least `2^-9` and the range below `2^11`. -/
theorem within_hueQuotient {i j : Nat} (hi : minChannel r g b ≤ i ∧ i ≤ maxChannel r g b)
    (hj : minChannel r g b ≤ j ∧ j ≤ maxChannel r g b) :
    Within (fdiv (fsub (normalise i) (normalise j)) (channelRange r g b)) 0 1 ∨
      Within (fdiv (fsub (normalise i) (normalise j)) (channelRange r g b)) (-1) (-(1 / 2 ^ 20)) := by
  obtain ⟨hNi, hiM⟩ := hi
  obtain ⟨hNj, hjM⟩ := hj
  have hM := maxChannel_le hr hg hb
  have hrange := within_channelRange hr hg hb hne
  have hge := hrange.ge
  have hle := hrange.le
  have hfi := finite_normalise (hiM.trans hM)
  have hfj := finite_normalise (hjM.trans hM)
  have h0 : Representable 0 := representable_zero
  have h1 : Representable 1 := representable_of_abs 1 0 (by norm_num)
  rcases lt_trichotomy j i with hij | rfl | hij
  · have hdiff := within_normalise_sub hij (hiM.trans hM)
    have htop := val_normalise_sub_le hr hg hb hij hiM hNj
    exact .inl (within_fdiv hdiff.finite hrange.finite h0 h1 (by linarith) (by linarith [hdiff.ge]) (by linarith))
  · rw [fsub_self hfi]
    exact .inl (within_fdiv rfl hrange.finite h0 h1 (by linarith) (by simp) (by simp; linarith))
  · have hdiff := within_normalise_sub hij (hjM.trans hM)
    have htop := val_normalise_sub_le hr hg hb hij hjM hNi
    have hswap : fsub (normalise i) (normalise j) = fneg (fsub (normalise j) (normalise i)) := by
      have hgap := normalise_gap hij (hjM.trans hM)
      rw [fsub_eq hfi hfj, fsub_eq hfj hfi, if_neg (by linarith), if_neg (by linarith), ← nearestFlt_neg (by linarith),
        neg_sub]
    rw [hswap]
    refine .inr (within_fdiv (by rw [finite_fneg]; exact hdiff.finite) hrange.finite h1.neg
      (representable_of_abs 1 20 (by norm_num)) (by linarith) ?_ ?_) <;> rw [val_fneg] <;> linarith [hdiff.ge]

/-- The unscaled hue of unequal channels: a quotient, or one moved up by 2 or 4 (R80). -/
theorem within_unscaledHue_of_ne :
    Within (hslUnscaled (normalise r) (normalise g) (normalise b)).hf 0 5 ∨
      Within (hslUnscaled (normalise r) (normalise g) (normalise b)).hf (-1) (-(1 / 2 ^ 20)) := by
  have hbr : minChannel r g b ≤ r ∧ r ≤ maxChannel r g b := by unfold minChannel maxChannel; omega
  have hbg : minChannel r g b ≤ g ∧ g ≤ maxChannel r g b := by unfold minChannel maxChannel; omega
  have hbb : minChannel r g b ≤ b ∧ b ≤ maxChannel r g b := by unfold minChannel maxChannel; omega
  have hmoved {k : Nat} {q : Flt} (hk : 1 ≤ k ∧ k ≤ 4) (hq : Within q 0 1 ∨ Within q (-1) (-(1 / 2 ^ 20))) :
      Within (fadd (i2f k) q) 0 5 := by
    obtain ⟨hk1, hk4⟩ := hk
    have hk1 : (1 : ℚ) ≤ k := by exact_mod_cast hk1
    have hk4' : (k : ℚ) ≤ 4 := by exact_mod_cast hk4
    have hbounds : q.finite = true ∧ -1 ≤ q.val ∧ q.val ≤ 1 := by
      rcases hq with h | h
      · exact ⟨h.finite, by linarith [h.ge], h.le⟩
      · exact ⟨h.finite, h.ge, by linarith [h.le]⟩
    obtain ⟨hfin, hge, hle⟩ := hbounds
    have hval : (i2f k).val = k := val_i2f (by omega)
    exact within_fadd (finite_i2f (by omega)) hfin representable_zero
      (representable_of_abs 5 0 (by norm_num)) (by linarith) (by linarith)
  rw [hslUnscaled_hf_of_ne hr hg hb hne]
  split_ifs
  · refine (within_hueQuotient hr hg hb hne hbb hbg).imp_left fun h => ⟨h.finite, h.ge, by linarith [h.le]⟩
  · exact .inl (hmoved (by norm_num) (within_hueQuotient hr hg hb hne hbb hbr))
  · exact .inl (hmoved (by norm_num) (within_hueQuotient hr hg hb hne hbr hbg))

end hue

/-- The wrap leaves a hue that is not negative (R81). -/
theorem wrapHue_of_nonneg {h : Flt} (hf : h.finite = true) (h0 : 0 ≤ h.val) : wrapHue h = h :=
  if_neg ((flt_iff hf rfl).not.mpr (by rw [val_fzero]; exact not_lt.mpr h0))

/-- The wrap moves a negative hue up by 360 (R81). -/
theorem wrapHue_of_neg {h : Flt} (hf : h.finite = true) (h0 : h.val < 0) : wrapHue h = fadd h (i2f 360) :=
  if_pos ((flt_iff hf rfl).mpr (by rw [val_fzero]; exact h0))

section results

variable {r g b : Nat} (hr : r ≤ 262143) (hg : g ≤ 262143) (hb : b ≤ 262143)
include hr hg hb

/-- The hue after the wrap: a negative product is at most `-2^-15`, and 360 less that is a float. -/
theorem within_hf : Within (hslCore r g b).hf 0 (360 - 1 / 2 ^ 15) := by
  have h360 : (i2f 360).val = 360 := val_i2f (by norm_num)
  have hunscaled : Within (hslUnscaled (normalise r) (normalise g) (normalise b)).hf 0 5 ∨
      Within (hslUnscaled (normalise r) (normalise g) (normalise b)).hf (-1) (-(1 / 2 ^ 20)) := by
    by_cases hne : r = g ∧ g = b
    · obtain ⟨rfl, rfl⟩ := hne
      rw [(hslUnscaled_of_eq hr).1]
      exact .inl ⟨rfl, by simp, by simp⟩
    · exact within_unscaledHue_of_ne hr hg hb hne
  rw [hslCore_hf]
  rcases hunscaled with hu | hu
  · have hscaled : Within (fmul (hslUnscaled (normalise r) (normalise g) (normalise b)).hf (i2f 60)) 0 300 :=
      within_fmul_i2f hu (by norm_num) representable_zero (representable_of_abs 300 0 (by norm_num)) (by norm_num)
        (by norm_num)
    rw [wrapHue_of_nonneg hscaled.finite hscaled.ge]
    exact ⟨hscaled.finite, hscaled.ge, by linarith [hscaled.le]⟩
  · have hscaled : Within (fmul (hslUnscaled (normalise r) (normalise g) (normalise b)).hf (i2f 60)) (-60)
        (-(1 / 2 ^ 15)) :=
      within_fmul_i2f hu (by norm_num) (representable_of_abs 60 0 (by norm_num))
        (representable_of_abs 1 15 (by norm_num)) (by norm_num) (by norm_num)
    rw [wrapHue_of_neg hscaled.finite (by linarith [hscaled.le])]
    exact within_fadd hscaled.finite (finite_i2f (by norm_num)) representable_zero
      (representable_of_abs 11796479 15 (by norm_num)) (by rw [h360]; linarith [hscaled.ge])
      (by rw [h360]; linarith [hscaled.le])

/-! ### Lightness and saturation (R77, R79) -/

theorem within_channelSum {k : Nat} (hk : k ≤ 1029) (h : maxChannel r g b ≤ 255 * k) :
    Within (channelSum r g b) 0 (2 * k : ℕ) := by
  have hM := maxChannel_le hr hg hb
  have hN := minChannel_le (r := r) (g := g) hb
  have hNM := minChannel_le_maxChannel r g b
  have hM0 := normalise_nonneg hM
  have hN0 := normalise_nonneg hN
  have hM1 := normalise_le hk hM h
  have hN1 := normalise_le hk hN (hNM.trans h)
  exact within_fadd (finite_normalise hM) (finite_normalise hN) representable_zero
    (representable_natCast (by omega)) (by linarith) (by push_cast; linarith)

theorem within_lightness {k : Nat} (hk : k ≤ 1029) (h : maxChannel r g b ≤ 255 * k) :
    Within (lightness (channelSum r g b)) 0 k := by
  have hsum := within_channelSum hr hg hb hk h
  exact within_fdiv_i2f hsum (by norm_num) representable_zero (representable_natCast (by omega)) (by norm_num)
    (by norm_num) (by push_cast; linarith)

theorem within_lf {k : Nat} (hk : k ≤ 1029) (h : maxChannel r g b ≤ 255 * k) :
    Within (hslCore r g b).lf 0 (100 * k : ℕ) := by
  have hl := within_lightness hr hg hb hk h
  rw [hslCore_lf, hslUnscaled_lf_eq hr hg hb]
  exact within_fmul_i2f hl (by norm_num) representable_zero (representable_natCast (by omega)) (by norm_num)
    (by push_cast; linarith)

end results

/-- Settles O22: the bound below 360 is a float. -/
theorem hueIsBelow360 : Obligations.HueIsBelow360 := by
  intro r g b hr hg hb
  have h := within_hf hr hg hb
  exact ⟨h.finite, h.ge, by linarith [h.le]⟩

end Sys2Proof.Proofs

namespace Sys2Proof.Proofs

open Sys2Proof Sys2Proof.Machine Sys2Proof.Laws

/-! ### No NaN (R72) -/

theorem roundFlt_ne_nan (neg : Bool) (n d : Nat) (e : Int) : roundFlt neg n d e ≠ .nan := by
  unfold roundFlt
  split
  · exact Flt.noConfusion
  · rw [packFlt_eq]
    split_ifs <;> exact Flt.noConfusion

/-- A non-zero finite float divided by a finite one is not NaN. -/
theorem fdiv_ne_nan {a b : Flt} (ha : a.finite = true) (hb : b.finite = true) (ha0 : a.val ≠ 0) :
    fdiv a b ≠ .nan := by
  by_cases hb0 : b.val = 0
  · rw [eq_fzero_of_val hb hb0, ((special_of_finite ha _).1 ha0).1]
    exact Flt.noConfusion
  · rw [fdiv_eq ha hb hb0, if_neg ha0]
    exact roundFlt_ne_nan _ _ _ _

/-- A product by 100.0 is NaN for NaN only. -/
theorem fmul_hundred_ne_nan {a : Flt} (ha : a ≠ .nan) : fmul a (i2f 100) ≠ .nan := by
  have h100 : i2f 100 = .fin false 13107200 (-17) := by decide
  rw [h100]
  cases a with
  | nan => exact absurd rfl ha
  | inf s => exact Flt.noConfusion
  | fin s m e => exact roundFlt_ne_nan _ _ _ _

theorem ne_nan_of_finite {a : Flt} (ha : a.finite = true) : a ≠ .nan := by
  rintro rfl
  cases ha

section saturation

variable {r g b : Nat} (hr : r ≤ 262143) (hg : g ≤ 262143) (hb : b ≤ 262143)
include hr hg hb

/-- The divisor of the first saturation arm is finite, zero included. -/
theorem finite_two_sub_range (hne : ¬(r = g ∧ g = b)) : (fsub (i2f 2) (channelRange r g b)).finite = true := by
  have hrange := within_channelRange hr hg hb hne
  have h2 : (i2f 2).val = 2 := val_i2f (by norm_num)
  exact (within_fsub (finite_i2f (by norm_num)) hrange.finite (representable_of_abs (x := -1027) 1027 0 (by norm_num))
    (representable_of_abs (x := 2) 2 0 (by norm_num)) (by linarith [hrange.le]) (by linarith [hrange.ge])).finite

/-- The saturation divides a non-zero range, so it is infinite at worst. -/
theorem sf_ne_nan : (hslCore r g b).sf ≠ .nan := by
  rw [hslCore_sf]
  refine fmul_hundred_ne_nan ?_
  by_cases hne : r = g ∧ g = b
  · obtain ⟨rfl, rfl⟩ := hne
    rw [(hslUnscaled_of_eq hr).2]
    exact Flt.noConfusion
  · have hrange := within_channelRange hr hg hb hne
    have hrange0 : (channelRange r g b).val ≠ 0 := by linarith [hrange.ge]
    have hsum := within_channelSum hr hg hb (k := 1029) le_rfl ((maxChannel_le hr hg hb).trans (by norm_num))
    rw [hslUnscaled_sf_of_ne hr hg hb hne, saturation]
    split
    · exact fdiv_ne_nan hrange.finite (finite_two_sub_range hr hg hb hne) hrange0
    · exact fdiv_ne_nan hrange.finite hsum.finite hrange0

end saturation

/-- Settles O21: hue and lightness are finite, and the saturation divides a non-zero range. -/
theorem hslDatapathNeverGivesNaN : Obligations.HslDatapathNeverGivesNaN := by
  intro r g b hr hg hb
  have hlf := within_lf hr hg hb (k := 1029) le_rfl ((maxChannel_le hr hg hb).trans (by norm_num))
  exact ⟨ne_nan_of_finite (within_hf hr hg hb).finite, sf_ne_nan hr hg hb, ne_nan_of_finite hlf.finite⟩

/-! ### Saturation (R79, R84, R86) -/

/-- The constant 0.5 is exact. -/
theorem finite_val_fHalf : fHalf.finite = true ∧ fHalf.val = 1 / 2 := by
  have hhalf : fHalf = .fin false 8388608 (-24) := by decide
  exact ⟨by decide, by norm_num [hhalf]⟩

/-- The test of step 5 is by the value 1/2. -/
theorem fgt_fHalf {a : Flt} (ha : a.finite = true) : fgt a fHalf = true ↔ 1 / 2 < a.val := by
  obtain ⟨hfin, hval⟩ := finite_val_fHalf
  rw [fgt, flt_iff hfin ha, hval]

section saturation

variable {r g b : Nat} (hr : r ≤ 262143) (hg : g ≤ 262143) (hb : b ≤ 262143)
include hr hg hb

/-- A range of 2.0 comes with a lightness of at least 3/4: the greatest channel is at least as far out as a difference
that rounds to 2.0. -/
theorem fgt_lightness_of_range (h : (channelRange r g b).val = 2) :
    fgt (lightness (channelSum r g b)) fHalf = true := by
  have hM := maxChannel_le hr hg hb
  have hN := minChannel_le (r := r) (g := g) hb
  have hM0 := normalise_mono (minChannel_le_maxChannel r g b) hM
  have hM1 := normalise_le (k := 1029) le_rfl hM (by omega)
  have hN0 := normalise_nonneg hN
  push_cast at hM1
  have hmax : 3 / 2 ≤ (normalise (maxChannel r g b)).val := by
    by_contra! hlt
    have hrange : Within (channelRange r g b) 0 (3 / 2) :=
      within_fsub (finite_normalise hM) (finite_normalise hN) representable_zero
        (representable_of_abs 3 1 (by norm_num)) (by linarith) (by linarith)
    linarith [hrange.le]
  have hsum : Within (channelSum r g b) (3 / 2) 2058 :=
    within_fadd (finite_normalise hM) (finite_normalise hN) (representable_of_abs 3 1 (by norm_num))
      (representable_of_abs 2058 0 (by norm_num)) (by linarith) (by linarith)
  have hlight : Within (lightness (channelSum r g b)) (3 / 4) 1029 :=
    within_fdiv_i2f hsum (by norm_num) (representable_of_abs 3 2 (by norm_num))
      (representable_of_abs 1029 0 (by norm_num)) (by norm_num) (by norm_num) (by norm_num)
  exact (fgt_fHalf hlight.finite).mpr (by linarith [hlight.ge])

/-- Inside the contract the range is at most 1.0 and at most the sum of the extremes (R84). -/
theorem channelRange_le (h : maxChannel r g b ≤ 255) :
    (channelRange r g b).val ≤ 1 ∧ (channelRange r g b).val ≤ (channelSum r g b).val := by
  have hM := maxChannel_le hr hg hb
  have hN := minChannel_le (r := r) (g := g) hb
  have hNM := normalise_mono (minChannel_le_maxChannel r g b) hM
  have hM1 := normalise_le (k := 1) (by norm_num) hM h
  have hN0 := normalise_nonneg hN
  have h0 : Representable 0 := representable_zero
  push_cast at hM1
  obtain ⟨hdiff, -, hle⟩ := rnd_between h0 (representable_of_abs (x := 1) 1 0 (by norm_num)) (sub_nonneg.mpr hNM)
    (by linarith)
  obtain ⟨hadd, -, -⟩ := rnd_between h0 (representable_of_abs (x := 2) 2 0 (by norm_num))
    (show 0 ≤ (normalise (maxChannel r g b)).val + (normalise (minChannel r g b)).val by linarith) (by linarith)
  rw [channelRange, channelSum, val_fsub (finite_normalise hM) (finite_normalise hN),
    val_fadd (finite_normalise hM) (finite_normalise hN)]
  exact ⟨hle, rnd_mono hdiff hadd (by linarith)⟩

/-- Inside the contract both arms divide the range by something at least as large (R84). -/
theorem within_sf (h : maxChannel r g b ≤ 255) : Within (hslCore r g b).sf 0 100 := by
  have h0 : Representable 0 := representable_zero
  have h1 : Representable 1 := representable_of_abs 1 0 (by norm_num)
  have h2 : (i2f 2).val = 2 := val_i2f (by norm_num)
  have hunscaled : Within (hslUnscaled (normalise r) (normalise g) (normalise b)).sf 0 1 := by
    by_cases hne : r = g ∧ g = b
    · obtain ⟨rfl, rfl⟩ := hne
      rw [(hslUnscaled_of_eq hr).2]
      exact ⟨rfl, by simp, by simp⟩
    · have hrange := within_channelRange hr hg hb hne
      have hsum := within_channelSum hr hg hb (k := 1) (by norm_num) h
      obtain ⟨hle1, hlesum⟩ := channelRange_le hr hg hb h
      have hge := hrange.ge
      rw [hslUnscaled_sf_of_ne hr hg hb hne, saturation]
      split
      · have hden : Within (fsub (i2f 2) (channelRange r g b)) 1 2 :=
          within_fsub (finite_i2f (by norm_num)) hrange.finite h1 (representable_of_abs 2 0 (by norm_num))
            (by linarith) (by linarith)
        have hden1 := hden.ge
        exact within_fdiv hrange.finite hden.finite h0 h1 (by linarith) (by linarith) (by linarith)
      · exact within_fdiv hrange.finite hsum.finite h0 h1 (by linarith) (by linarith) (by linarith)
  rw [hslCore_sf]
  exact within_fmul_i2f hunscaled (by norm_num) h0 (representable_of_abs 100 0 (by norm_num)) (by norm_num)
    (by norm_num)

end saturation

/-- Settles O20: at a range of 2.0 the first arm divides by +0.0, and an infinity saturates. -/
theorem rangeOfTwoSaturatesS : Obligations.RangeOfTwoSaturatesS := by
  intro r g b s hr hg hb h
  rw [max3_normalise hr hg hb, min3_normalise hr hg hb, ← channelRange] at h
  have hval : (channelRange r.toNat g.toNat b.toNat).val = 2 := by rw [h, val_i2f (by norm_num), Nat.cast_ofNat]
  have hne : ¬(r.toNat = g.toNat ∧ g.toNat = b.toNat) := by
    rw [← channelRange_eq_fzero_iff hr hg hb, h]
    decide
  have hinf : f2i (fmul (fdiv (i2f 2) (fsub (i2f 2) (i2f 2))) (i2f 100)) = 2147483647#32 := by decide
  refine ⟨_, exec_rgbToHsl r g b s, ?_⟩
  rw [respond_res, hslResult, hslCore_sf, hslUnscaled_sf_of_ne hr hg hb hne, saturation,
    if_pos (fgt_lightness_of_range hr hg hb hval), h]
  exact hinf

/-! ### The ranges of the results (R84, R85, R89) -/

/-- A float in `[0, n + 1)` converts to at most `n`. -/
theorem f2i_toNat_le {a : Flt} {n : Nat} (hn : n < 2 ^ 31) (ha : a.finite = true) (h0 : 0 ≤ a.val)
    (h : a.val < n + 1) : (f2i a).toNat ≤ n := by
  have hlo : 0 ≤ ⌊a.val⌋ := Int.floor_nonneg.mpr h0
  have hhi : ⌊a.val⌋ < n + 1 := Int.floor_lt.mpr (by push_cast; exact h)
  have hint := f2i_toInt_of_nonneg ha h0
  rw [saturateInt_eq, if_neg (by omega), if_neg (by omega), BitVec.toInt_eq_toNat_cond] at hint
  split at hint <;> omega

theorem maxChannel_le_of {r g b k : Nat} (hr : r ≤ k) (hg : g ≤ k) (hb : b ≤ k) : maxChannel r g b ≤ k :=
  max_le (max_le hr hg) hb

/-- The brightness of 8-bit channels: half the lightness and the hue's part of a turn are at most 50 each (R89). -/
theorem within_brightness {r g b : Nat} (hr : r ≤ 255) (hg : g ≤ 255) (hb : b ≤ 255) :
    Within (brightnessFloat (hslCore r g b)) 0 100 := by
  have h0 : Representable 0 := representable_zero
  have h50 : Representable 50 := representable_of_abs 50 0 (by norm_num)
  have hlf := within_lf (r := r) (g := g) (b := b) (by omega) (by omega) (by omega) (k := 1) (by norm_num)
    (maxChannel_le_of hr hg hb)
  have hhf := within_hf (r := r) (g := g) (b := b) (by omega) (by omega) (by omega)
  obtain ⟨hhalf, hhalfVal⟩ := finite_val_fHalf
  have hlf1 := hlf.le
  push_cast at hlf1
  have hlight : Within (fmul (hslCore r g b).lf fHalf) 0 50 :=
    within_fmul hlf.finite hhalf h0 h50 (by rw [hhalfVal]; linarith [hlf.ge]) (by rw [hhalfVal]; linarith)
  have hturn : Within (fdiv (hslCore r g b).hf (i2f 360)) 0 1 :=
    within_fdiv_i2f hhf (by norm_num) h0 (representable_of_abs 1 0 (by norm_num)) (by norm_num) (by norm_num)
      (by norm_num)
  have hhue : Within (fmul (fdiv (hslCore r g b).hf (i2f 360)) (i2f 50)) 0 50 :=
    within_fmul_i2f hturn (by norm_num) h0 h50 (by norm_num) (by norm_num)
  exact within_fadd hlight.finite hhue.finite h0 (representable_of_abs 100 0 (by norm_num))
    (by linarith [hlight.ge, hhue.ge]) (by linarith [hlight.le, hhue.le])

/-- Settles O23: each truncated float is in its range. -/
theorem resultsStayInTheirRanges : Obligations.ResultsStayInTheirRanges := by
  refine ⟨fun r g b s hr hg hb => ⟨_, exec_rgbToHsl r g b s, ?_, fun hr' hg' hb' => ?_⟩,
    fun p s => ⟨_, exec_brightnessScore p s, ?_⟩⟩
  · have h := within_hf hr hg hb
    exact f2i_toNat_le (by norm_num) h.finite h.ge (by norm_num; linarith [h.le])
  · have hmax := maxChannel_le_of hr' hg' hb'
    have hs := within_sf hr hg hb hmax
    have hl := within_lf hr hg hb (k := 1) (by norm_num) hmax
    have hl1 := hl.le
    push_cast at hl1
    exact ⟨f2i_toNat_le (by norm_num) hs.finite hs.ge (by norm_num; linarith [hs.le]),
      f2i_toNat_le (by norm_num) hl.finite hl.ge (by norm_num; linarith)⟩
  · have h := within_brightness (Nat.le_of_lt_succ (pixelRed p).isLt) (Nat.le_of_lt_succ (pixelGreen p).isLt)
      (Nat.le_of_lt_succ (pixelBlue p).isLt)
    exact f2i_toNat_le (by norm_num) h.finite h.ge (by norm_num; linarith [h.le])

end Sys2Proof.Proofs

namespace Sys2Proof.Proofs

open Sys2Proof Sys2Proof.Machine Sys2Proof.Laws

/-! ### The channel sums and their clamp (41_frame_decoder.md R105 to R113) -/

/-- The luma offset is the truncated difference of natural numbers (R109). -/
theorem lumaOffset_eq_sub (Y : Nat) : lumaOffset Y = ((Y - 16 : Nat) : Int) := by
  unfold lumaOffset Config.yOffset
  omega

theorem clamp18_eq (x : Int) : (clamp18 x : Int) = max 0 (min x 262143) := by
  unfold clamp18 clampInt Config.clampMax
  split
  · omega
  · split <;> omega

/-- Settles O32: each channel is its clamped sum, and the sums are bounded because each source byte is. -/
theorem converterClampsTheChannelSums : Obligations.ConverterClampsTheChannelSums := by
  intro Y U V y u v r g b c
  have hY : Y.toNat < 256 := Y.isLt
  have hU : U.toNat < 256 := U.isLt
  have hV : V.toNat < 256 := V.isLt
  have hy : lumaOffset Y.toNat = y := by
    rw [lumaOffset_eq_sub]
    omega
  have hc : c = convert y u v := by rw [← hy]; rfl
  rw [hc]
  exact ⟨clamp18_eq r, clamp18_eq g, clamp18_eq b, by omega⟩

/-! ### The pack (41_frame_decoder.md R114 to R116) -/

/-- Masking a byte at bit `k` keeps that byte alone. -/
theorem and_byteMask (x k : Nat) : x &&& 255 <<< k = 2 ^ k * (x / 2 ^ k % 256) := by
  apply Nat.eq_of_testBit_eq
  intro i
  rw [show 255 = 2 ^ 8 - 1 by rfl, show 256 = 2 ^ 8 by rfl, Nat.testBit_and, Nat.testBit_shiftLeft,
    Nat.testBit_two_pow_sub_one, Nat.testBit_two_pow_mul, Nat.testBit_mod_two_pow, Nat.testBit_div_two_pow]
  by_cases hk : k ≤ i
  · simp [hk, Bool.and_comm]
  · simp [hk]

section fields
variable {x : Nat} (hx : x ≤ 262143)
include hx

theorem redField_toNat : (redField x).toNat = 2 ^ 16 * (x / 1024) := by
  have hmask : (redField x).toNat = (x % 2 ^ 32) <<< 6 % 2 ^ 32 &&& 255 <<< 16 := by
    rw [redField, BitVec.toNat_and, BitVec.toNat_shiftLeft, BitVec.toNat_ofNat]
    rfl
  rw [hmask, and_byteMask, Nat.shiftLeft_eq]
  omega

theorem greenField_toNat : (greenField x).toNat = 2 ^ 8 * (x / 1024) := by
  have hmask : (greenField x).toNat = (x % 2 ^ 32) >>> 2 &&& 255 <<< 8 := by
    rw [greenField, BitVec.toNat_and, BitVec.toNat_ushiftRight, BitVec.toNat_ofNat]
    rfl
  rw [hmask, and_byteMask, Nat.shiftRight_eq_div_pow]
  omega

theorem blueField_toNat : (blueField x).toNat = x / 1024 := by
  have hmask : (blueField x).toNat = (x % 2 ^ 32) >>> 10 &&& 255 <<< 0 := by
    rw [blueField, BitVec.toNat_and, BitVec.toNat_ushiftRight, BitVec.toNat_ofNat]
    rfl
  rw [hmask, and_byteMask, Nat.shiftRight_eq_div_pow]
  omega

end fields

/-- The four fields occupy disjoint bits, so the OR is their sum (R116). -/
theorem packRgb18_toNat {c : Rgb18} (hr : c.r ≤ 262143) (hg : c.g ≤ 262143) (hb : c.b ≤ 262143) :
    (packRgb18 c).toNat = 255 * 2 ^ 24 + c.r / 1024 * 2 ^ 16 + c.g / 1024 * 2 ^ 8 + c.b / 1024 := by
  have hred : c.r / 1024 < 2 ^ 8 := by omega
  have hgreen : c.g / 1024 < 2 ^ 8 := by omega
  have hblue : c.b / 1024 < 2 ^ 8 := by omega
  have halpha : (Config.alpha <<< 24).toNat = 2 ^ 24 * 255 := by decide
  calc (packRgb18 c).toNat
      = 2 ^ 24 * 255 ||| 2 ^ 16 * (c.r / 1024) ||| 2 ^ 8 * (c.g / 1024) ||| c.b / 1024 := by
        rw [packRgb18, BitVec.toNat_or, BitVec.toNat_or, BitVec.toNat_or, halpha, redField_toNat hr,
          greenField_toNat hg, blueField_toNat hb]
    _ = 2 ^ 16 * (2 ^ 8 * 255 + c.r / 1024) ||| 2 ^ 8 * (c.g / 1024) ||| c.b / 1024 := by
        rw [← Nat.two_pow_add_eq_or_of_lt (by omega)]
        congr 2
        omega
    _ = 2 ^ 8 * (2 ^ 8 * (2 ^ 8 * 255 + c.r / 1024) + c.g / 1024) ||| c.b / 1024 := by
        rw [← Nat.two_pow_add_eq_or_of_lt (by omega)]
        congr 1
        omega
    _ = _ := by
        rw [← Nat.two_pow_add_eq_or_of_lt hblue]
        omega

/-- Settles O33: each field is the top byte of its channel, and the fields add up. -/
theorem packTakesTheTopBytes : Obligations.PackTakesTheTopBytes := by
  intro c hr hg hb
  have hsum := packRgb18_toNat hr hg hb
  refine ⟨BitVec.eq_of_toNat_eq ?_, hsum⟩
  rw [hsum, packArgb_toNat]
  simp only [BitVec.toNat_ofNat]
  omega

/-- Settles O34: without chroma each sum is `1192 * y`, so the three channels are one and the pack gives one byte. -/
theorem greyDecodesToGrey : Obligations.GreyDecodesToGrey := by
  intro Y y g
  have hY : Y.toNat < 256 := Y.isLt
  have hluma : lumaOffset Y.toNat = (y : Int) := lumaOffset_eq_sub _
  have hchroma : chromaOffset 128 = 0 := rfl
  have hclamp : clamp18 (1192 * (y : Int)) = min (1192 * y) 262143 := by
    have := clamp18_eq (1192 * (y : Int))
    omega
  have hred : redSum y 0 = 1192 * y := by simp [redSum]
  have hgreen : greenSum y 0 0 = 1192 * y := by simp [greenSum]
  have hblue : blueSum y 0 = 1192 * y := by simp [blueSum]
  have hle : min (1192 * y) 262143 ≤ 262143 := min_le_right _ _
  rw [hluma, hchroma, convert, hred, hgreen, hblue, hclamp]
  exact ⟨rfl, rfl, rfl, (packTakesTheTopBytes ⟨_, _, _⟩ hle hle hle).1, by omega⟩

/-! ### The element of a pixel (41_frame_decoder.md R117 to R120) -/

/-- Settles O59: the element and its three bytes are the model's own definitions, written out. -/
theorem elementIsThePackedPixelOrTheHslTriple : Obligations.ElementIsThePackedPixelOrTheHslTriple :=
  ⟨fun _ => ⟨rfl, rfl⟩, fun _ _ _ _ _ => rfl⟩

end Sys2Proof.Proofs

namespace Sys2Proof.Proofs

open Sys2Proof Sys2Proof.Machine Sys2Proof.Laws

/-! ### The start of a frame (41_frame_decoder.md R100, R101) -/

/-- Settles O35: the null check fails before anything else is done. -/
theorem nullBufferGivesNothing : Obligations.NullBufferGivesNothing := by
  intro k bv w h len s ho hnull
  have hn : nullBuffer bv (frameArgs w h len) = true :=
    nullBuffer_iff.mpr (hnull.imp_right fun hlen => congrArg BitVec.toNat hlen)
  refine ⟨respondNothing s, ?_, completedWith_respond _ _ _ s⟩
  rw [exec_frameInstr, frameCommand, if_pos ho, beginFrame, if_pos hn]

/-- Past the null check the first step of a frame command is its start and the completion test. -/
theorem frameCommand_of_notNull (k : FrameKind) {a : FrameArgs} {s : State} (ho : s.outKind = .none)
    (hlen : 0 < a.len) : frameCommand k true a s = completeIfDone a (startFrame k s) := by
  have hn : nullBuffer true a = false := nullBuffer_eq_false.mpr ⟨rfl, Nat.ne_of_gt hlen⟩
  simp [frameCommand, beginFrame, ho, hn]

section completion
variable {a : FrameArgs} {s : State}

theorem completeIfDone_of_done (h : a.width = 0 ∨ a.height ≤ s.j) : completeIfDone a s =
    respond .ok .noFault ⟨BitVec.ofNat 32 (a.width * a.height), 0#32, 0#32, 0#32⟩ s :=
  if_pos (frameDone_iff.mpr h)

theorem completeIfDone_of_pixelLeft (hw : a.width ≠ 0) (hj : s.j < a.height) : completeIfDone a s = s :=
  if_neg (Bool.eq_false_iff.mp (frameDone_eq_false.mpr ⟨hw, hj⟩))

/-- The completion test does not touch the chroma pair. -/
theorem completeIfDone_keepsChroma (a : FrameArgs) (s : State) : KeepsChroma s (completeIfDone a s) := by
  unfold completeIfDone
  split <;> exact ⟨rfl, rfl, rfl⟩

end completion

/-- Settles O36: the start writes position and OUT, and the completion test responds when there is no pixel. -/
theorem frameStartSetsThePosition : Obligations.FrameStartSetsThePosition := by
  intro k w h len s ho hlen
  have hstep : exec (frameInstr k true w h len) s =
      .next (completeIfDone (frameArgs w h len) (startFrame k s)) := by
    rw [exec_frameInstr, frameCommand_of_notNull k ho (BitVec.toNat_pos_of_ne_zero hlen)]
  obtain ⟨hin, hpos, hout⟩ := completeIfDone_keeps (frameArgs w h len) (startFrame k s)
  obtain ⟨huvp, hu, hv⟩ := completeIfDone_keepsChroma (frameArgs w h len) (startFrame k s)
  refine ⟨_, hstep, hout.outKind, hout.out, hpos.j, hpos.i, hpos.yp, ⟨huvp, hu, hv⟩,
    ⟨hin.port, hin.cw, hin.src, hin.bytes⟩, ?_⟩
  split
  · next hz =>
    have hdone : w.toNat = 0 ∨ h.toNat ≤ 0 :=
      hz.imp (congrArg BitVec.toNat) fun hh => Nat.le_of_eq (congrArg BitVec.toNat hh)
    have hsize : w.toNat * h.toNat = 0 := Nat.mul_eq_zero.mpr (hdone.imp_right Nat.le_zero.mp)
    rw [completeIfDone_of_done hdone, frameArgs_width, frameArgs_height, hsize]
    exact ⟨rfl, rfl, rfl, rfl, rfl, rfl⟩
  · next hz =>
    obtain ⟨hw, hh⟩ := not_or.mp hz
    rw [completeIfDone_of_pixelLeft (Nat.ne_of_gt (BitVec.toNat_pos_of_ne_zero hw)) (BitVec.toNat_pos_of_ne_zero hh)]
    exact ⟨rfl, rfl, rfl, rfl, rfl, rfl⟩

/-! ### One pixel step (41_frame_decoder.md R117) -/

/-- The state of a pixel step between the chroma fetch and the write (R104, R105): at an even column the pair at the
chroma pointer is loaded, at an odd one the held pair stays. -/
def chromaFetched (a : FrameArgs) (s : State) : State :=
  if s.i % 2 = 0 then
    loadChroma (byteAt s.src (rowStart a s).uvp) (byteAt s.src ((rowStart a s).uvp + 1)) (rowStart a s)
  else rowStart a s

/-- A pixel step whose reads are below LEN. -/
theorem pixelStep_of_readable (k : FrameKind) {a : FrameArgs} {s : State} (hy : s.yp < a.len)
    (hpair : s.i % 2 = 0 → (rowStart a s).uvp + 1 < a.len) :
    pixelStep k a s = completeIfDone a (pixelDone k a (byteAt s.src s.yp) (chromaFetched a s)) := by
  obtain ⟨hc, -⟩ | ⟨-, hi, hc, -⟩ | ⟨-, hi, hc, -⟩ | ⟨-, hi, -, e⟩ | ⟨-, hi, e⟩ := pixelStep_cases k a s
  · omega
  · have := hpair hi
    omega
  · have := hpair hi
    omega
  · rw [e, chromaFetched, if_pos hi]
    rfl
  · rw [e, chromaFetched, if_neg (by omega)]
    rfl

/-- The chroma fetch writes the chroma pointer and the held pair alone. -/
theorem chromaFetched_eq (a : FrameArgs) (s : State) : chromaFetched a s = s.withChroma
    (if s.i % 2 = 0 then (rowStart a s).uvp + 2 else (rowStart a s).uvp)
    (if s.i % 2 = 0 then chromaOffset (byteAt s.src ((rowStart a s).uvp + 1)) else s.u)
    (if s.i % 2 = 0 then chromaOffset (byteAt s.src (rowStart a s).uvp) else s.v) := by
  unfold chromaFetched
  split <;> rfl

/-- The response after the completion test of a pixel: the command goes on while a row is left. -/
theorem completeIfDone_response {a : FrameArgs} {s d : State} (hw : a.width ≠ 0) (hcw : d.cw = s.cw)
    (hresp : KeepsResponse s d) :
    if (completeIfDone a d).j < a.height then KeepsResponse s (completeIfDone a d)
    else Responded s (completeIfDone a d) .ok .noFault
      ⟨BitVec.ofNat 32 (a.width * a.height), 0#32, 0#32, 0#32⟩ := by
  obtain ⟨-, hpos, -⟩ := completeIfDone_keeps a d
  rw [hpos.j]
  split
  · next hj => rwa [completeIfDone_of_pixelLeft hw hj]
  · next hj =>
    rw [completeIfDone_of_done (.inr (Nat.not_lt.mp hj))]
    exact ⟨rfl, rfl, rfl, rfl, congrArg Cmd.opc hcw, rfl⟩

/-- Settles O37: the pair is fetched or held, the element of the pixel appended, and the completion test made. -/
theorem pixelStepAppendsOneElement : Obligations.PixelStepAppendsOneElement := by
  intro k bv w h len s ho hw hj hy uvp hpair v u c
  have huvp : (rowStart (frameArgs w h len) s).uvp = uvp := chromaPointer_eq _ _ _ _ _
  have hfetch : chromaFetched (frameArgs w h len) s = s.withChroma (if s.i % 2 = 0 then uvp + 2 else uvp) u v :=
    huvp ▸ chromaFetched_eq _ s
  have hstep : exec (frameInstr k bv w h len) s = .next (completeIfDone (frameArgs w h len)
      (pixelDone k (frameArgs w h len) (byteAt s.src s.yp) (chromaFetched (frameArgs w h len) s))) := by
    rw [exec_frameInstr, frameCommand_of_pixelLeft k bv ho hw hj, pixelStep_of_readable k hy (huvp ▸ hpair)]
  rw [hfetch] at hstep
  refine ⟨_, hstep, ?_⟩
  obtain ⟨hin, hpos, hout⟩ := completeIfDone_keeps (frameArgs w h len) (pixelDone k _ _ (s.withChroma _ u v))
  obtain ⟨huvp', hu', hv'⟩ := completeIfDone_keepsChroma (frameArgs w h len) (pixelDone k _ _ (s.withChroma _ u v))
  refine ⟨hout.out.trans ?_, hout.outKind, hpos.yp, hpos.i, hpos.j, huvp', hu', hv',
    ⟨hin.port, hin.cw, hin.src, hin.bytes⟩,
    completeIfDone_response (Nat.ne_of_gt hw) rfl ⟨rfl, rfl, rfl, rfl, rfl, rfl⟩⟩
  cases k <;> rfl

end Sys2Proof.Proofs

namespace Sys2Proof.Proofs

open Sys2Proof Sys2Proof.Machine Sys2Proof.Laws

/-! ### Every command completes (41_frame_decoder.md R102, 60_exceptions.md R140) -/

theorem exists_step (s : State) : ∃ t, step s = .next t := by
  cases hm : s.mode with
  | idle => exact ⟨_, step_of_idle hm⟩
  | busy =>
    obtain ⟨_, _, _, h⟩ | ⟨_, _, _, h⟩ := step_of_latch s.cw
    · exact ⟨_, h s hm rfl⟩
    · exact ⟨_, h s hm rfl⟩

/-- `t` has the one response to the command in `s`'s latch, over the same SRC. -/
structure Answered (s t : State) : Prop where
  mode : t.mode = .idle
  respValid : t.respValid = true
  cw : t.cw = s.cw
  src : t.src = s.src

/-- `t` has not answered yet and is at a started frame. -/
structure GoesOn (s t : State) : Prop where
  mode : t.mode = s.mode
  outKind : t.outKind ≠ .none
  cw : t.cw = s.cw
  src : t.src = s.src

theorem answered_respond (k : RespKind) (c : FaultCode) (r : Res) (s : State) : Answered s (respond k c r s) :=
  ⟨rfl, rfl, rfl, rfl⟩

/-- A pixel step answers, or the command goes on at the next pixel. -/
theorem pixelStep_answers_or_advances (k : FrameKind) (a : FrameArgs) {s : State} (ho : s.outKind ≠ .none) :
    Answered s (pixelStep k a s) ∨ (GoesOn s (pixelStep k a s) ∧ (pixelStep k a s).yp = s.yp + 1) := by
  have tested (s' : State) (hs' : GoesOn s s') (hyp : s'.yp = s.yp + 1) :
      Answered s (completeIfDone a s') ∨ (GoesOn s (completeIfDone a s') ∧ (completeIfDone a s').yp = s.yp + 1) := by
    unfold completeIfDone
    split
    · exact .inl ⟨rfl, rfl, hs'.cw, hs'.src⟩
    · exact .inr ⟨hs', hyp⟩
  obtain ⟨-, e⟩ | ⟨-, -, -, e⟩ | ⟨-, -, -, e⟩ | ⟨-, -, -, e⟩ | ⟨-, -, e⟩ := pixelStep_cases k a s <;> rw [e]
  · exact .inl ⟨rfl, rfl, rfl, rfl⟩
  · exact .inl ⟨rfl, rfl, rfl, rfl⟩
  · exact .inl ⟨rfl, rfl, rfl, rfl⟩
  · exact tested _ ⟨rfl, ho, rfl, rfl⟩ rfl
  · exact tested _ ⟨rfl, ho, rfl, rfl⟩ rfl

/-- A step of the run to a response, before the rest of the run. -/
theorem answers_of_step {s s' : State} {n : Nat} (hstep : step s = .next s') (hcw : s'.cw = s.cw)
    (hsrc : s'.src = s.src) (h : ∃ m ≤ n, ∃ t, Host.Core.run core m s' = .next t ∧ Answered s' t) :
    ∃ m ≤ n + 1, ∃ t, Host.Core.run core m s = .next t ∧ Answered s t := by
  obtain ⟨m, hm, t, hrun, hans⟩ := h
  exact ⟨m + 1, Nat.succ_le_succ hm, t, (run_succ m hstep).trans hrun,
    hans.mode, hans.respValid, hans.cw.trans hcw, hans.src.trans hsrc⟩

/-- By the invariant a started frame command has its buffer and is between two pixel steps. -/
theorem inFlight_of_decode {k : FrameKind} {bv : Bool} {w h len : Word} {s : State} (hinv : Inv s)
    (hm : s.mode = .busy) (ho : s.outKind ≠ .none) (hd : decode s.cw = .ok (frameInstr k bv w h len)) :
    bv = true ∧ InFlight k (frameArgs w h len) s := by
  obtain ⟨_, _, _, _, hd', -, hf⟩ := hinv.flight hm ho
  obtain ⟨rfl, rfl, rfl, rfl, rfl⟩ := frameInstr_inj (Except.ok.inj (hd.symm.trans hd'))
  exact ⟨rfl, hf⟩

/-- A started frame answers after at most one step for each pixel that is left. -/
theorem started_answers {k : FrameKind} {w h len : Word} (n : Nat) {s : State} (hinv : Inv s) (hm : s.mode = .busy)
    (ho : s.outKind ≠ .none) (hd : decode s.cw = .ok (frameInstr k true w h len))
    (hn : w.toNat * h.toNat ≤ s.yp + n) :
    ∃ m ≤ n, ∃ t, Host.Core.run core m s = .next t ∧ Answered s t := by
  induction n generalizing s with
  | zero =>
    obtain ⟨-, hf⟩ := inFlight_of_decode hinv hm ho hd
    have hlt : s.yp < w.toNat * h.toNat := yp_lt_of_inFlight hf
    omega
  | succ n ih =>
    obtain ⟨-, hf⟩ := inFlight_of_decode hinv hm ho hd
    have hstep : step s = .next (pixelStep k (frameArgs w h len) s) := by
      rw [step_of_decode hm hd, exec_frameInstr, frameCommand_of_pixelLeft k true ho (Nat.zero_lt_of_lt hf.col) hf.row]
    obtain hans | ⟨hgo, hyp⟩ := pixelStep_answers_or_advances k (frameArgs w h len) ho
    · exact ⟨1, by omega, _, run_succ 0 hstep, hans⟩
    · exact answers_of_step hstep hgo.cw hgo.src (ih (stepKeepsTheInvariant _ _ hinv hstep) (hgo.mode.trans hm)
        hgo.outKind (hgo.cw ▸ hd) (by omega))

/-- The first step of a frame command answers or starts the frame at its first pixel. -/
theorem frameCommand_answers_or_starts (k : FrameKind) (bv : Bool) (a : FrameArgs) {s : State}
    (ho : s.outKind = .none) : Answered s (frameCommand k bv a s) ∨
      (bv = true ∧ GoesOn s (frameCommand k bv a s)) := by
  obtain ⟨-, -, e⟩ | ⟨-, hn, e⟩ | ⟨hc, -⟩ | ⟨hc, -⟩ := frameCommand_cases k bv a s
  · exact .inl (e ▸ answered_respond _ _ _ s)
  · rw [e]
    unfold completeIfDone
    split
    · exact .inl ⟨rfl, rfl, rfl, rfl⟩
    · exact .inr ⟨(nullBuffer_eq_false.mp hn).1, rfl, outKindOf_ne_none k, rfl, rfl⟩
  · exact absurd ho hc
  · exact absurd ho hc

/-- A frame command in flight answers after at most the start and one step for each pixel. -/
theorem frame_answers {k : FrameKind} {bv : Bool} {w h len : Word} {s : State} (hinv : Inv s) (hm : s.mode = .busy)
    (hd : decode s.cw = .ok (frameInstr k bv w h len)) :
    ∃ n ≤ w.toNat * h.toNat + 1, ∃ t, Host.Core.run core n s = .next t ∧ Answered s t := by
  by_cases ho : s.outKind = .none
  · have hstep : step s = .next (frameCommand k bv (frameArgs w h len) s) := by
      rw [step_of_decode hm hd, exec_frameInstr]
    obtain hans | ⟨rfl, hgo⟩ := frameCommand_answers_or_starts k bv (frameArgs w h len) ho
    · exact ⟨1, by omega, _, run_succ 0 hstep, hans⟩
    · exact answers_of_step hstep hgo.cw hgo.src (started_answers _ (stepKeepsTheInvariant _ _ hinv hstep)
        (hgo.mode.trans hm) hgo.outKind (hgo.cw ▸ hd) (Nat.le_add_left _ _))
  · obtain ⟨rfl, -⟩ := inFlight_of_decode hinv hm ho hd
    obtain ⟨n, hn, t, ht⟩ := started_answers _ hinv hm ho hd (Nat.le_add_left _ _)
    exact ⟨n, Nat.le_succ_of_le hn, t, ht⟩

/-- Settles O48: no command stops the machine, a scalar or an illegal command is one completion, and every step of a
frame command answers or brings the frame one pixel on. -/
theorem everyCommandCompletes : Obligations.EveryCommandCompletes := by
  refine ⟨exists_step, fun s hinv hm => ?_⟩
  have one {k c r} (hstep : step s = .next (respond k c r s)) : Host.Core.run core 1 s = .next (respond k c r s) :=
    run_succ 0 hstep
  cases hd : decode s.cw with
  | error e => exact ⟨1, _, one (step_of_illegal hm hd), rfl, rfl, rfl, rfl, rfl⟩
  | ok i =>
    have hstep := step_of_decode hm hd
    cases i with
    | extractArgb p => exact ⟨1, _, one hstep, rfl, rfl, rfl, rfl, rfl⟩
    | rgbToHsl r g b => exact ⟨1, _, one hstep, rfl, rfl, rfl, rfl, rfl⟩
    | brightnessScore p => exact ⟨1, _, one hstep, rfl, rfl, rfl, rfl, rfl⟩
    | decodeToRgb bv w h len =>
      obtain ⟨n, hn, t, hrun, hans⟩ := frame_answers (k := .rgb) hinv hm hd
      exact ⟨n, t, hrun, hans.mode, hans.respValid, hans.cw, hans.src, hn⟩
    | decodeToHsl bv w h len =>
      obtain ⟨n, hn, t, hrun, hans⟩ := frame_answers (k := .hsl) hinv hm hd
      exact ⟨n, t, hrun, hans.mode, hans.respValid, hans.cw, hans.src, hn⟩

end Sys2Proof.Proofs

namespace Sys2Proof.Proofs

open Sys2Proof Sys2Proof.Machine Sys2Proof.Laws

/-! ### A whole frame (41_frame_decoder.md R102, R118 to R120) -/

/-- After the last pixel of the frame no row is left. -/
theorem PixelReady.height_le_nextRow {k : FrameKind} {a : FrameArgs} {s : State} (h : PixelReady k a s)
    (hlast : s.yp + 1 = a.width * a.height) : a.height ≤ nextRow a.width s.i s.j := by
  by_contra hmore
  have hlt : s.yp + 1 < a.width * a.height := yp_lt_of_inFlight (h.inFlight_pixelDone (Nat.lt_of_not_le hmore))
  omega

/-- `t` has the OK response to the frame command in `s`'s latch, and OUT holds every pixel of the frame over `m`. -/
structure WholeFrame (k : FrameKind) (w h : Word) (m : List Host.Cell) (s t : State) : Prop where
  response : Responded s t .ok .noFault ⟨BitVec.ofNat 32 (w.toNat * h.toNat), 0#32, 0#32, 0#32⟩
  outKind : t.outKind = outKindOf k
  out : t.out = frameOut k m w.toNat h.toNat (w.toNat * h.toNat)
  src : t.src = m

section frame
variable {k : FrameKind} {w h len : Word} {m : List Host.Cell} {n : Nat} {s : State}

/-- The step of the last pixel completes the frame. -/
theorem AtPixel.step_of_last (hs : AtPixel k w h len m n s) (hfit : readsFit w.toNat h.toNat len.toNat n)
    (hlast : n + 1 = w.toNat * h.toNat) : ∃ t : State, step s = .next t ∧ WholeFrame k w h m s t := by
  obtain ⟨hin, hkind, -⟩ := pixelStep_effect k (frameArgs w h len) s
  obtain ⟨s', hready, -, hin', hpos, e⟩ := pixelStep_of_readsFit hs.inFlight (hs.yp ▸ hfit)
  have hyp : s'.yp = n := hpos.yp.trans hs.yp
  have hout : (pixelDone k (frameArgs w h len) (byteAt s'.src s'.yp) s').out =
      frameOut k m w.toNat h.toNat (n + 1) := by
    rw [hready.out_pixelDone, hin'.src, hs.src, hyp]
  rw [completeIfDone_of_done (.inr (hready.height_le_nextRow (hyp ▸ hlast)))] at e
  refine ⟨_, hs.step_eq, ?_, hkind.trans hs.outKind, ?_, hin.src.trans hs.src⟩
  · rw [e]
    exact ⟨rfl, rfl, rfl, rfl, congrArg Cmd.opc hin'.cw, rfl⟩
  · rw [e, ← hlast]
    exact hout

/-- Acceptance and the first step of a frame command with a byte in its buffer. -/
theorem run_two_of_presentedFrame (hp : Presented (frameInstr k true w h len) s) (hlen : 0 < len.toNat) :
    Host.Core.run core 2 s = .next (completeIfDone (frameArgs w h len)
      (startFrame k (accept (encode (frameInstr k true w h len)) s))) := by
  rw [run_succ 1 (step_of_presented hp.idle hp.port), run_succ 0 (step_of_frameLatch rfl rfl),
    frameCommand_of_notNull k rfl hlen]
  rfl

/-- A presented frame command whose pixels all fit completes with the whole frame. -/
theorem wholeFrame_of_readsFit (hp : Presented (frameInstr k true w h len) s) (hlen : 0 < len.toNat)
    (hfit : ∀ p, p < w.toNat * h.toNat → readsFit w.toNat h.toNat len.toNat p) :
    ∃ t : State, Host.Core.run core (w.toNat * h.toNat + 2) s = .next t ∧
      WholeFrame k w h s.src { s with cw := encode (frameInstr k true w h len) } t := by
  rcases Nat.eq_zero_or_pos (w.toNat * h.toNat) with hsize | hsize
  · have hdone : w.toNat = 0 ∨ h.toNat ≤ 0 := (Nat.mul_eq_zero.mp hsize).imp_right Nat.le_of_eq
    have hrun := run_two_of_presentedFrame hp hlen
    rw [completeIfDone_of_done hdone] at hrun
    rw [hsize]
    exact ⟨_, hrun, ⟨rfl, rfl, rfl, rfl, rfl, rfl⟩, rfl, by rw [hsize]; rfl, rfl⟩
  · obtain ⟨s₀, hrun₀, hat₀⟩ := start_of_presented hp hlen (Nat.pos_of_mul_pos_right hsize)
      (Nat.pos_of_mul_pos_left hsize)
    obtain ⟨s₁, hrun₁, hat₁⟩ := hat₀.run (w.toNat * h.toNat - 1) (by omega) fun p hlt => hfit p (by omega)
    obtain ⟨t, hstep, ht⟩ := hat₁.step_of_last (hfit _ (by omega)) (by omega)
    refine ⟨t, ?_, { ht with response := ?_ }⟩
    · rw [show w.toNat * h.toNat + 2 = 2 + (w.toNat * h.toNat - 1 + 1) by omega, run_add 2 _ hrun₀,
        run_add _ 1 hrun₁, run_succ 0 hstep]
      rfl
    · exact { ht.response with opc := ht.response.opc.trans (congrArg Cmd.opc hat₁.cw) }

end frame

/-- Settles O41: with LEN at least `need` every pixel fits, and the number of pixels is a word. -/
theorem sufficientBufferDecodesTheWholeFrame : Obligations.SufficientBufferDecodesTheWholeFrame := by
  intro k w h len s hp hlen hneed
  obtain ⟨t, hrun, ht⟩ := wholeFrame_of_readsFit hp (BitVec.toNat_pos_of_ne_zero hlen) fun _ =>
    readsFit_of_need_le hneed
  refine ⟨t, hrun, ht.response, ht.outKind, ht.out, ht.src, ?_⟩
  have hlt : w.toNat * h.toNat < 2 ^ 32 := ((size_le_need _ _).trans hneed).trans_lt len.isLt
  rw [ht.response.res, outLen, ht.out, frameOut_length, BitVec.toNat_ofNat, Nat.mod_eq_of_lt hlt]

/-! ### A block of four pixels (41_frame_decoder.md R106) -/

theorem frameOut_getElem? (k : FrameKind) (m : List Host.Cell) (w h : Nat) {n p : Nat} (hp : p < n) :
    (frameOut k m w h n)[p]? = some (pixelElem k m w h p) := by
  simp [frameOut, hp]

/-- Two pixels over one chroma pair with equal luma decode alike. -/
theorem pixelElem_eq_of_block (k : FrameKind) (m : List Host.Cell) {w row row' col col' : Nat} (h : Nat)
    (hcol : col < w) (hcol' : col' < w) (hr : row / 2 = row' / 2) (hc : col / 2 = col' / 2)
    (hluma : byteAt m (row * w + col) = byteAt m (row' * w + col')) :
    pixelElem k m w h (row * w + col) = pixelElem k m w h (row' * w + col') := by
  rw [pixelElem_at k m h row hcol, pixelElem_at k m h row' hcol', pixelChannels, pixelChannels, vIndex, vIndex,
    hr, hc, hluma]

/-- Settles O44: the four pixels of a block are over one chroma pair. -/
theorem blockWithEqualLumaDecodesAlike : Obligations.BlockWithEqualLumaDecodesAlike := by
  intro k w h len s t hp hlen hneed hrun a b ha hb p h1 h2 h3
  obtain ⟨t', hrun', ht'⟩ := wholeFrame_of_readsFit hp (BitVec.toNat_pos_of_ne_zero hlen) fun _ =>
    readsFit_of_need_le hneed
  obtain rfl : t = t' := Host.Outcome.next.inj (hrun.symm.trans hrun')
  have hsize : (2 * a + 2) * w.toNat ≤ w.toNat * h.toNat := by
    rw [Nat.mul_comm w.toNat]
    exact Nat.mul_le_mul_right _ ha
  have hrow : (2 * a + 1) * w.toNat = 2 * a * w.toNat + w.toNat := Nat.succ_mul _ _
  rw [Nat.add_mul] at hsize
  have e1 : p + 1 = 2 * a * w.toNat + (2 * b + 1) := rfl
  have e2 : p + w.toNat = (2 * a + 1) * w.toNat + 2 * b := by omega
  have e3 : p + w.toNat + 1 = (2 * a + 1) * w.toNat + (2 * b + 1) := by omega
  have alike (row col) (hr : row / 2 = a) (hc : col / 2 = b) (hlt : row * w.toNat + col < w.toNat * h.toNat)
      (hcol : col < w.toNat) (hluma : byteAt s.src (row * w.toNat + col) = byteAt s.src p) :
      t.out[row * w.toNat + col]? = some (pixelElem k s.src w.toNat h.toNat p) := by
    rw [ht'.out, frameOut_getElem? _ _ _ _ hlt,
      pixelElem_eq_of_block k s.src _ hcol (by omega : 2 * b < w.toNat) (by omega) (by omega) hluma]
  have hp0 : t.out[p]? = some (pixelElem k s.src w.toNat h.toNat p) :=
    alike (2 * a) (2 * b) (by omega) (by omega) (by omega) (by omega) rfl
  rw [e1] at h1
  rw [e2] at h2
  rw [e3] at h3
  rw [hp0, e3, e2, e1]
  exact ⟨nofun, alike _ _ (by omega) (by omega) (by omega) hb h1, alike _ _ (by omega) (by omega) (by omega)
    (by omega) h2, alike _ _ (by omega) (by omega) (by omega) hb h3⟩

/-! ### The pixels in another order (41_frame_decoder.md R124) -/

/-- The first missing pixel of an order is one of its missing pixels, and none of them is before it. -/
theorem leastMissing_eq_some {w h len n : Nat} {order : List Nat} (hn : leastMissing w h len order = some n) :
    n ∈ order ∧ ¬readsFit w h len n ∧ ∀ p ∈ order, ¬readsFit w h len p → n ≤ p := by
  induction order generalizing n with
  | nil => cases hn
  | cons x order ih =>
    rw [leastMissing] at hn
    split at hn
    · next hx =>
      obtain ⟨hmem, hmiss, hmin⟩ := ih hn
      exact ⟨List.mem_cons_of_mem x hmem, hmiss, List.forall_mem_cons.mpr ⟨absurd hx, hmin⟩⟩
    · next hx =>
      split at hn
      · next hnone =>
        obtain rfl := Option.some.inj hn
        exact ⟨List.mem_cons_self, hx, List.forall_mem_cons.mpr
          ⟨fun _ => le_rfl, fun p hp hmiss => absurd (leastMissing_eq_none.mp hnone p hp) hmiss⟩⟩
      · next m hsome =>
        obtain ⟨hmem, hmiss, hmin⟩ := ih hsome
        obtain rfl := Option.some.inj hn
        have hall : ∀ p ∈ x :: order, ¬readsFit w h len p → min x m ≤ p := List.forall_mem_cons.mpr
          ⟨fun _ => min_le_left _ _, fun p hp hp' => (min_le_right _ _).trans (hmin p hp hp')⟩
        rcases min_choice x m with e | e
        · exact ⟨by simp [e], by rwa [e], hall⟩
        · exact ⟨by simp [e, hmem], by rwa [e], hall⟩

/-- The slots before `n`, when the order names each of them, hold the first `n` elements of OUT. -/
theorem take_fillSlots (k : FrameKind) (m : List Host.Cell) (w h : Nat) {order : List Nat} {n size : Nat}
    (hn : n ≤ size) (hall : ∀ p < n, p ∈ order) :
    (fillSlots k m w h order (List.replicate size none)).take n = (frameOut k m w h n).map some := by
  apply List.ext_getElem?
  intro p
  rcases Nat.lt_or_ge p n with hp | hp
  · rw [List.getElem?_take_of_lt hp, fillSlots_getElem? _ _ _ _ _ _ _ (by rw [List.length_replicate]; omega),
      if_pos (hall p hp), List.getElem?_map, frameOut_getElem? _ _ _ _ hp, Option.map_some]
  · rw [List.getElem?_eq_none (by rw [List.length_take]; omega),
      List.getElem?_eq_none (by simp [frameOut_length, hp])]

section order
variable {k : FrameKind} {m : List Host.Cell} {a : FrameArgs} {order : List Nat}

/-- With no missing byte the answer in any order is the whole frame. -/
theorem answerInOrder_of_readsFit (horder : order.Perm (List.range (a.width * a.height)))
    (hfit : ∀ p, p < a.width * a.height → readsFit a.width a.height a.len p) :
    answerInOrder k m a order = ⟨.ok, .noFault, ⟨BitVec.ofNat 32 (a.width * a.height), 0#32, 0#32, 0#32⟩,
      (frameOut k m a.width a.height (a.width * a.height)).map some⟩ := by
  have hmem (p : Nat) : p ∈ order ↔ p < a.width * a.height := by rw [horder.mem_iff, List.mem_range]
  have hnone : leastMissing a.width a.height a.len order = none :=
    leastMissing_eq_none.mpr fun p hp => hfit p ((hmem p).mp hp)
  have hslots := take_fillSlots k m a.width a.height le_rfl fun p hp => (hmem p).mpr hp
  rw [List.take_of_length_le (by simp [fillSlots_length])] at hslots
  simp only [answerInOrder, hnone, frameSize_eq, hslots]

/-- With a first missing pixel the answer in any order is the fault at that pixel. -/
theorem answerInOrder_of_missing {n : Nat} (horder : order.Perm (List.range (a.width * a.height)))
    (hn : n < a.width * a.height) (hfit : ∀ p, p < n → readsFit a.width a.height a.len p)
    (hmiss : ¬readsFit a.width a.height a.len n) :
    answerInOrder k m a order = ⟨.fault, .bounds, ⟨BitVec.ofNat 32 n,
        if a.len ≤ vIndex a.width a.height (n / a.width) (n % a.width) then 1#32 else 2#32, 0#32, 0#32⟩,
      (frameOut k m a.width a.height n).map some⟩ := by
  have hmem (p : Nat) : p ∈ order ↔ p < a.width * a.height := by rw [horder.mem_iff, List.mem_range]
  have hsome : leastMissing a.width a.height a.len order = some n := by
    cases hl : leastMissing a.width a.height a.len order with
    | none => exact absurd (leastMissing_eq_none.mp hl n ((hmem n).mpr hn)) hmiss
    | some n' =>
      obtain ⟨-, hmiss', hmin⟩ := leastMissing_eq_some hl
      have hle : n ≤ n' := Nat.le_of_not_lt fun hlt => hmiss' (hfit n' hlt)
      rw [Nat.le_antisymm hle (hmin n ((hmem n).mpr hn) hmiss)]
  have hslots := take_fillSlots k m a.width a.height
    (order := order.filter fun p => readsFit a.width a.height a.len p) hn.le fun p hp =>
      List.mem_filter.mpr ⟨(hmem p).mpr (hp.trans hn), decide_eq_true (hfit p hp)⟩
  simp only [answerInOrder, hsome, frameSize_eq, hslots, apply_ite whichWord]
  rfl

end order

/-- Settles O58: the first missing pixel, and so the answer, does not depend on the order. -/
theorem everyPixelOrderGivesTheSequentialAnswer : Obligations.EveryPixelOrderGivesTheSequentialAnswer := by
  intro k w h len s order hp hlen horder
  rcases Nat.lt_or_ge len.toNat (need w.toNat h.toNat) with hshort | hneed
  · obtain ⟨n, t, hn, hfit, hmiss, -, hrun, hresp, hkind, hout, -⟩ :=
      shortBufferFaultsAtTheFirstMissingByte k w h len s hp hlen hshort
    rw [answerInOrder_of_missing (a := frameArgs w h len) horder hn hfit hmiss]
    exact ⟨n + 3, t, hrun, hresp, hkind, congrArg _ hout⟩
  · obtain ⟨t, hrun, hresp, hkind, hout, -⟩ := sufficientBufferDecodesTheWholeFrame k w h len s hp hlen hneed
    rw [answerInOrder_of_readsFit (a := frameArgs w h len) horder fun p => readsFit_of_need_le hneed]
    exact ⟨_, t, hrun, hresp, hkind, congrArg _ hout⟩

end Sys2Proof.Proofs

namespace Sys2Proof.Proofs

open Sys2Proof Sys2Proof.Machine Sys2Proof.Laws

/-! ### Faults and instances (60_exceptions.md R144, R152) -/

/-- Settles O39: the invariant after the step lets a BOUNDS response name only a chroma read; the step keeps it because
the luma index of a frame in flight is below LEN. -/
theorem lumaReadNeverFails : Obligations.LumaReadNeverFails := by
  intro s t hinv _ hstep hcode
  have ht : Inv t := stepKeepsTheInvariant s t hinv hstep
  obtain ⟨-, hres | hres⟩ := ht.boundsResp hcode
  · simp [hres]
  · simp [hres]

/-- A turn of instance `l` is a step of its own state. -/
theorem getElem?_stepInstance_self {l : Nat} {is : List State} {s t : State} (hs : is[l]? = some s)
    (hstep : step s = .next t) : (stepInstance l is)[l]? = some t := by
  obtain ⟨hl, -⟩ := List.getElem?_eq_some_iff.mp hs
  simp only [stepInstance, hs, hstep]
  exact List.getElem?_set_self hl

/-- A turn of instance `k` leaves every other instance as it is. -/
theorem getElem?_stepInstance_of_ne {k l : Nat} (is : List State) (hne : k ≠ l) :
    (stepInstance k is)[l]? = is[l]? := by
  unfold stepInstance
  split
  · rfl
  · split
    · exact List.getElem?_set_ne hne
    · rfl
    · rfl

/-- Settles O56, by induction on the schedule: a turn of the instance itself is the first step of its own run, and a
turn of another instance changes neither its state nor its count of steps. -/
theorem instancesDoNotAffectEachOther : Obligations.InstancesDoNotAffectEachOther := by
  intro ks
  induction ks with
  | nil => exact fun is l s hs => ⟨s, rfl, hs⟩
  | cons k ks ih =>
    intro is l s hs
    by_cases hkl : k = l
    · subst hkl
      obtain ⟨s', hstep⟩ := exists_step s
      rw [List.count_cons_self, run_succ _ hstep]
      exact ih _ k s' (getElem?_stepInstance_self hs hstep)
    · rw [List.count_cons_of_ne hkl]
      exact ih _ l s ((getElem?_stepInstance_of_ne is hkl).trans hs)

end Sys2Proof.Proofs

namespace Sys2Proof.Proofs

open Sys2Proof Sys2Proof.Machine Sys2Proof.Laws

/-! ### The reset signal (70_reset_and_hazards.md R160, R22) -/

/-- The reset signal clears every field STATUS is made of. -/
theorem statusWord_resetSignal (s : State) : statusWord (resetSignal s) = 0#32 := by
  apply BitVec.eq_of_toNat_eq
  simp [statusWord_toNat, State.reset, busyBit, codeBits, kindBits]

/-- Settles O53: the reset state is itself what the signal makes of it, so its STATUS is that of any reset instance. -/
theorem resetSignalGivesTheResetValues : Obligations.ResetSignalGivesTheResetValues := by
  intro s
  have hreset : statusWord State.reset = 0#32 := statusWord_resetSignal State.reset
  exact ⟨resetSignal s, rfl, resetSignal_mode s, statusWord_resetSignal s, resetSignal_res s, resetSignal_outKind s,
    resetSignal_out s, resetSignal_src s, hreset, rfl⟩

end Sys2Proof.Proofs
